-- ==== Sys2Proof/Word.lean ====
section
/-! DEFINITION. The byte and byte-string types of `00_scope.md` rules R13 and R14. Every multi-byte entity of the
block is a byte string and is never read as an integer (R13, R53); the operators on byte strings (R15) stand in
`Sys2Proof/Machine/Operands.lean`. -/

namespace Sys2Proof

/-- One byte; bit 0 is the least significant bit (R13, R14). -/
abbrev Byte := BitVec 8

/-- `Bytes_n` of R13: a byte string of length exactly `n`; index 0 is the first (leading) byte. -/
abbrev Bytes (n : Nat) := Vector Byte n

/-- A byte string of any length (R13): the messages of `H` and the operands of the host's macros. -/
abbrev ByteString := List Byte

/-- `0^n` of R13: `n` zero bytes. -/
def zeros (n : Nat) : Bytes n := Vector.replicate n 0

end Sys2Proof
end

