-- ==== Sys2Proof/Syntax.lean ====
section
/-! DEFINITION. The instruction set: the nine commands of `30_encoding.md` rule R78, one constructor per row of
`spec/opcode_table.json`. -/

namespace Sys2Proof

/-- A command of the block (R78). Its operands are the staging buffers and the KeyMaterial slot, which each command names
implicitly (R70); the only fields are the two presence flags of format P (R72, R74). -/
inductive Instr where
  /-- `CLR`, opcode `0x0`, format Z (R101). -/
  | clr
  /-- `LOADKEY`, opcode `0x1`, format P: `opp` is bit 4 (OP present), `kp` bit 5 (K present) (R106). -/
  | loadkey (opp kp : Bool)
  /-- `OPC`, opcode `0x2`, format Z (R121). -/
  | opc
  /-- `F1`, opcode `0x3`, format Z (R131). -/
  | f1
  /-- `F2`, opcode `0x4`, format Z (R145). -/
  | f2
  /-- `F3`, opcode `0x5`, format Z (R146). -/
  | f3
  /-- `F4`, opcode `0x6`, format Z (R147). -/
  | f4
  /-- `F5`, opcode `0x7`, format Z (R148). -/
  | f5
  /-- `GENAV`, opcode `0x8`, format P: `sqnp` is bit 4 (SQN present), `randp` bit 5 (RAND present) (R162). -/
  | genav (sqnp randp : Bool)
deriving DecidableEq, Repr

end Sys2Proof
end

