-- ==== Sys2Proof/WellFormed.lean ====
section
/-! DEFINITION. Which command words encode a command, field by field (R70 to R72, R76, R77). Every term of `Instr` is
well-formed by its type (a presence flag is a `Bool`), so the checks stand on the word's two fields, where an ill-formed
term can be written. -/

namespace Sys2Proof

/-- The two fields of a command byte (R70): `flags` is bits 7:4, `opcode` bits 3:0. -/
structure CommandWord where
  flags : BitVec 4
  opcode : BitVec 4
deriving DecidableEq, Repr

namespace CommandWord

/-- Check 1: the opcode is not reserved (R76). -/
def opcodeAssigned (w : CommandWord) : Bool := decide (w.opcode.toNat ≤ 8)

/-- The opcode has format P (R72): `LOADKEY` and `GENAV`. The other assigned opcodes have format Z (R71). -/
def isFormatP (w : CommandWord) : Bool := w.opcode == 1#4 || w.opcode == 8#4

/-- Check 2, for format Z: no flag bit is set (R71). -/
def formatZFlagsClear (w : CommandWord) : Bool := w.isFormatP || w.flags == 0#4

/-- Check 3, for format P: bits 7:6 of the command byte, bits 3:2 of the field, are clear (R72). -/
def formatPFlagsClear (w : CommandWord) : Bool := !w.isFormatP || (w.flags &&& 0xC#4) == 0#4

/-- The word encodes a command (R77: the 15 legal bytes). -/
def wellFormed (w : CommandWord) : Bool :=
  w.opcodeAssigned && w.formatZFlagsClear && w.formatPFlagsClear

end CommandWord
end Sys2Proof
end

