-- ==== Sys2Proof/Decode.lean ====
section
/-! DEFINITION. The decoder of R73, total on the 256 command bytes and rejecting by name (R76, R77); the encoder from the
same encoding table (R78, R81); the match and mask table of R78; the host's `decodeTableWord`. -/

namespace Sys2Proof

/-- Why a command byte encodes no command. Either way the block raises `IllegalCommand(CMD)` (R76, R77). -/
inductive DecodeError where
  /-- The opcode is `0x9` to `0xF` (R76). -/
  | reservedOpcode
  /-- The opcode is assigned and a flag bit that its format reserves is set (R77). -/
  | reservedFlags
deriving DecidableEq, Repr

/-- What the decoder answers: one command with its flags, or "illegal" (R73). -/
inductive Decoded where
  | instr (i : Instr)
  | illegal (why : DecodeError)
deriving DecidableEq, Repr

/-- The command that was decoded, if the byte is legal. -/
def Decoded.instr? : Decoded → Option Instr
  | .instr i => some i
  | .illegal _ => none

/-- The fields of a command byte: `flags = c[7:4]`, `opcode = c[3:0]` (R70). -/
def commandFields (c : Byte) : CommandWord :=
  { flags := c.extractLsb' 4 4, opcode := c.extractLsb' 0 4 }

/-- Format Z (R71): the four flag bits must be `0000`. -/
def decodeFormatZ (flags : BitVec 4) (i : Instr) : Decoded :=
  if flags = 0#4 then .instr i else .illegal .reservedFlags

/-- Format P (R72): bits 7:6 must be `00`; `P0` is bit 4 of the byte, `P1` bit 5. -/
def decodeFormatP (flags : BitVec 4) (i : (p0 p1 : Bool) → Instr) : Decoded :=
  if flags.extractLsb' 2 2 = 0#2 then .instr (i (flags.getLsbD 0) (flags.getLsbD 1))
  else .illegal .reservedFlags

/-- `Decode(c)` of R73 and R78: the opcode fixes the format, then the reserved flag bits are checked. -/
def decode (c : Byte) : Decoded :=
  let w := commandFields c
  match w.opcode.toNat with
  | 0 => decodeFormatZ w.flags .clr
  | 1 => decodeFormatP w.flags .loadkey
  | 2 => decodeFormatZ w.flags .opc
  | 3 => decodeFormatZ w.flags .f1
  | 4 => decodeFormatZ w.flags .f2
  | 5 => decodeFormatZ w.flags .f3
  | 6 => decodeFormatZ w.flags .f4
  | 7 => decodeFormatZ w.flags .f5
  | 8 => decodeFormatP w.flags .genav
  | _ => .illegal .reservedOpcode

/-- Pattern `0000 oooo` of R71. -/
def encodeFormatZ (opcode : BitVec 4) : Byte := 0#4 ++ opcode

/-- Pattern `00 p1 p0 oooo` of R72. -/
def encodeFormatP (opcode : BitVec 4) (p0 p1 : Bool) : Byte :=
  0#2 ++ BitVec.ofBool p1 ++ BitVec.ofBool p0 ++ opcode

/-- The command byte of a command (R78, R81). -/
def encode : Instr → Byte
  | .clr => encodeFormatZ 0x0
  | .loadkey opp kp => encodeFormatP 0x1 opp kp
  | .opc => encodeFormatZ 0x2
  | .f1 => encodeFormatZ 0x3
  | .f2 => encodeFormatZ 0x4
  | .f3 => encodeFormatZ 0x5
  | .f4 => encodeFormatZ 0x6
  | .f5 => encodeFormatZ 0x7
  | .genav sqnp randp => encodeFormatP 0x8 sqnp randp

/-- `match` and `mask` of the command's row in R78: a byte `c` encodes the command when `c & mask = match`. -/
structure OpcodeRow where
  matchBits : Byte
  mask : Byte
deriving DecidableEq, Repr

/-- `c & mask = match` (R78). -/
def OpcodeRow.covers (r : OpcodeRow) (c : Byte) : Bool := c &&& r.mask == r.matchBits

/-- The command's row of R78. -/
def opcodeRow : Instr → OpcodeRow
  | .clr => ⟨0x00, 0xFF⟩
  | .loadkey _ _ => ⟨0x01, 0xCF⟩
  | .opc => ⟨0x02, 0xFF⟩
  | .f1 => ⟨0x03, 0xFF⟩
  | .f2 => ⟨0x04, 0xFF⟩
  | .f3 => ⟨0x05, 0xFF⟩
  | .f4 => ⟨0x06, 0xFF⟩
  | .f5 => ⟨0x07, 0xFF⟩
  | .genav _ _ => ⟨0x08, 0xCF⟩

/-- The rows of R78 in its order. -/
def opcodeTable : List OpcodeRow :=
  [opcodeRow .clr, opcodeRow (.loadkey false false), opcodeRow .opc, opcodeRow .f1, opcodeRow .f2, opcodeRow .f3,
   opcodeRow .f4, opcodeRow .f5, opcodeRow (.genav false false)]

/-- The host's question: the instruction the decoder reads from the bits `w` of `nbits` bits, bit 0 the least significant
bit of the one command byte; the bits above `nbits` are 0. A command is one byte (R70), so the decoder reads one. -/
def decodeTableWord (nbits w : Nat) : Option Instr :=
  (decode (BitVec.ofNat 8 (w % 2 ^ nbits))).instr?

end Sys2Proof
end

