-- ==== Sys2Proof/Machine/State.lean ====
section
/-! DEFINITION. The state of the block (R20: "the complete state of the block is the following list, and nothing else"),
grouped as the spec groups it, and beside it the two other agents of R7: the host, as the transactions it has still to
issue and the bytes its reads returned, and the random source. The reset values are those of R37. The register space is
a view of this state (R50 to R52) and holds nothing of its own, so there is no separate memory (log entry 8). -/

namespace Sys2Proof.Machine

/-- One operand's staging buffer `XBUF` of capacity `cap(X)` and its 8-bit push counter `XCNT` (R27). -/
structure Staging (cap : Nat) where
  buf : Bytes cap
  cnt : Byte
deriving DecidableEq, Repr

/-- The four staging buffers and counters of R20 and R27. -/
structure StagingArea where
  /-- `KBUF`, `KCNT`. -/
  k : Staging 16
  /-- `OPBUF`, `OPCNT`. -/
  op : Staging 16
  /-- `RANDBUF`, `RANDCNT`. -/
  rand : Staging 16
  /-- `SQNBUF`, `SQNCNT`. -/
  sqn : Staging 6
deriving DecidableEq, Repr

/-- The KeyMaterial slot `KM_K`, `KM_OP`, `KM_VALID` (R29). -/
structure KeyMaterial where
  k : Bytes 16
  op : Bytes 16
  valid : Bool
deriving DecidableEq, Repr

/-- The OPc memo `OPC`, `OPC_VALID` (R30). -/
structure Memo where
  opc : Bytes 16
  valid : Bool
deriving DecidableEq, Repr

/-- The status flags `OK`, `ERR` (R24, R33) and the error record `ERRCODE`, `ERRFIELD` (R25). -/
structure CommandStatus where
  ok : Bool
  err : Bool
  errcode : Byte
  errfield : Byte
deriving DecidableEq, Repr

/-- The result bitmap `RVALID` (R26) and the eight result registers (R31). -/
structure Results where
  rvalid : Byte
  randOut : Bytes 16
  xres : Bytes 8
  autn : Bytes 16
  ck : Bytes 16
  ik : Bytes 16
  maca : Bytes 8
  ak : Bytes 6
  opcOut : Bytes 16
deriving DecidableEq, Repr

/-- The complete state of the block (R20). -/
structure Block where
  staging : StagingArea
  km : KeyMaterial
  memo : Memo
  status : CommandStatus
  results : Results
deriving DecidableEq, Repr

/-- One host transaction (R6, R7, R80): a read or a write of one byte of the register space, or the reset input. -/
inductive Transaction where
  /-- `RD a`: `MemRead(a, 1)` (R51). -/
  | read (a : Byte)
  /-- `WR a, v`: `MemWrite(a, 1, v)` (R52). -/
  | write (a v : Byte)
  /-- `RESET`: the reset input is asserted (R200). -/
  | reset
deriving DecidableEq, Repr

/-- The external random source (R7, R188), which is no state of the block. The MODEL'S OWN: log entries 3 and 4. -/
inductive RandomSource where
  /-- None is connected, or it never answers (R188, R212): a draw is then stuck. -/
  | silent
  /-- It answers each request with a free value, `Config.rngAnswer` (R188: under no law). -/
  | free
  /-- A fixed source, plugged in for deterministic testing (R188): it answers with these values in order, then no more. -/
  | fixed (answers : List (Bytes 16))
deriving DecidableEq, Repr

/-- Which pair (`E`, `H`) is plugged into the block: "chosen outside the block", fixed for its life (R122, R201). The
MODEL'S OWN: log entry 12. -/
inductive Instantiation where
  /-- The open parameters of R9 and R10: the opaque constants of `Config`. -/
  | free
  /-- The test instantiation T of `95_test_vectors.md` section 2 (decision D30). -/
  | testT
deriving DecidableEq, Repr

/-- The machine: the block and, beside it, what the model needs of the other two agents (log entries 3, 5, 6 and 12). -/
structure State where
  /-- The block's state (R20). -/
  block : Block
  /-- The host transactions still to be issued, first first (R59, R80). The model's own. -/
  script : List Transaction
  /-- The bytes the host's reads have returned, oldest first (R80). The model's own. -/
  returned : List Byte
  /-- The connected random source (R188). The model's own. -/
  source : RandomSource
  /-- How many draws have been requested so far (R103, R188). The model's own. -/
  draws : Nat
  /-- The functions `E` and `H` that are plugged in (R35, R122). The model's own. -/
  inst : Instantiation
deriving DecidableEq, Repr

/-- How a run can stop with a fault. -/
inductive Fault where
  /-- Raised by `GENAV` with `RANDP = 0` and a KeyMaterial held when the random source does not answer: "the block is stuck
  for good" (R188; U3: stuck). Safe: no next state is claimed. -/
  | randomSourceSilent
deriving DecidableEq, Repr

/-- Why an instruction can be refused. -/
inductive Refusal where
  /-- Raised by `exec` alone, for a command of the opcode table that has no meaning yet; no arm answers it now. Safe. -/
  | notModelled (mnemonic : String)
deriving DecidableEq, Repr

/-- The block right after reset: every row of R37. -/
def Block.reset : Block where
  staging :=
    { k := ⟨zeros 16, 0x00⟩, op := ⟨zeros 16, 0x00⟩, rand := ⟨zeros 16, 0x00⟩, sqn := ⟨zeros 6, 0x00⟩ }
  km := { k := zeros 16, op := zeros 16, valid := false }
  memo := { opc := zeros 16, valid := false }
  status := { ok := false, err := false, errcode := 0x00, errfield := 0x00 }
  results :=
    { rvalid := 0x00, randOut := zeros 16, xres := zeros 8, autn := zeros 16, ck := zeros 16, ik := zeros 16,
      maca := zeros 8, ak := zeros 6, opcOut := zeros 16 }

/-- The machine right after reset: the block as R37 says; no host transaction pending, none made; a random source that
answers with free values, of which none has been asked yet; the open `E` and `H` (DESIGN CHOICE, log entries 3, 5 and 12). -/
def State.reset : State where
  block := Block.reset
  script := []
  returned := []
  source := .free
  draws := 0
  inst := .free

end Sys2Proof.Machine
end

