-- ==== Sys2Proof/Machine/Operands.lean ====
section
/-! DEFINITION. The operators on byte strings (R15), the hard-wired `AMF` (R11, R28), and the operand form of the block:
staging buffers filled through push ports (R27). -/

namespace Sys2Proof.Machine

/-- `a xor b` of R15: bytewise exclusive or, with no carry between bits or bytes (R18). -/
def xorBytes {n : Nat} (a b : Bytes n) : Bytes n := Vector.ofFn fun i => a[i] ^^^ b[i]

/-- `a || b` of R15: the bytes of `a` first, in order, then the bytes of `b`. -/
def catBytes {n m : Nat} (a : Bytes n) (b : Bytes m) : Bytes (n + m) :=
  Vector.ofFn fun i => if h : i.val < n then a[i.val] else b[i.val - n]

/-- `take(n, s)` of R15: the first `n` bytes. -/
def takeLeading {m : Nat} (n : Nat) (s : Bytes m) (h : n ≤ m) : Bytes n :=
  Vector.ofFn fun i => s[i.val]

/-- Byte `i` of an entity as a register read sees it; the address map never asks for a byte past the end. -/
def byteAt {n : Nat} (s : Bytes n) (i : Nat) : Byte := if h : i < n then s[i] else 0x00

/-- `AMF_CONST = 00 00` (R11, R28). -/
def amfConst : Bytes 2 := zeros 2

/-- The four operands that have a staging buffer (R27). -/
inductive Operand where
  | k
  | op
  | rand
  | sqn
deriving DecidableEq, Repr

/-- The address of the operand's push port (R27). -/
def Operand.pushPort : Operand → Byte
  | .k => 0x08
  | .op => 0x09
  | .rand => 0x0A
  | .sqn => 0x0B

/-- The counter after one more push: saturating, 255 stays 255 (R18, R27). -/
def countPush (cnt : Byte) : Byte := if cnt.toNat < 255 then cnt + 1 else cnt

/-- `Push(X, v)` of R27 on one operand's buffer and counter: a byte beyond the capacity is dropped. -/
def pushByte {cap : Nat} (x : Staging cap) (v : Byte) : Staging cap where
  buf := if x.cnt.toNat < cap then x.buf.setIfInBounds x.cnt.toNat v else x.buf
  cnt := countPush x.cnt

/-- `Push(X, v)` of R27 and R52 on the staging area: the other three operands are untouched. -/
def pushOperand (x : Operand) (v : Byte) (a : StagingArea) : StagingArea :=
  match x with
  | .k => { a with k := pushByte a.k v }
  | .op => { a with op := pushByte a.op v }
  | .rand => { a with rand := pushByte a.rand v }
  | .sqn => { a with sqn := pushByte a.sqn v }

/-- The push counter of an operand (R27). -/
def pushCount (x : Operand) (a : StagingArea) : Byte :=
  match x with
  | .k => a.k.cnt
  | .op => a.op.cnt
  | .rand => a.rand.cnt
  | .sqn => a.sqn.cnt

/-- A cleared staging buffer with its counter (R100). -/
def clearedOperand (cap : Nat) : Staging cap := { buf := zeros cap, cnt := 0x00 }

/-- The staging area after `ClearStaging()` of R100. -/
def clearedStaging : StagingArea :=
  { k := clearedOperand 16, op := clearedOperand 16, rand := clearedOperand 16, sqn := clearedOperand 6 }

end Sys2Proof.Machine
end

