-- ==== Sys2Proof/Machine/Flags.lean ====
section
/-! DEFINITION. The status byte (R24), the failure classes and field identifiers with their codes (R174, R175), and the
result bitmap with the registers its bits stand for (R26, R31). -/

namespace Sys2Proof.Machine

/-- The failure classes of R174. -/
inductive ErrClass where
  | missingParameter
  | malformedInput
  | invalidKeyLength
  | invalidInputLength
  | illegalCommand
  | noKeyMaterial
deriving DecidableEq, Repr

/-- The field identifiers of R175, other than NONE. -/
inductive ErrField where
  | op
  | key
  | sqn
  | rand
  | cmd
  | km
deriving DecidableEq, Repr

/-- `code(class)`: the `ERRCODE` of a class (R174). -/
def errCode : ErrClass → Byte
  | .missingParameter => 0x01
  | .malformedInput => 0x02
  | .invalidKeyLength => 0x03
  | .invalidInputLength => 0x04
  | .illegalCommand => 0x05
  | .noKeyMaterial => 0x06

/-- `id(field)`: the `ERRFIELD` of a field (R175). -/
def errField : ErrField → Byte
  | .op => 0x01
  | .key => 0x02
  | .sqn => 0x03
  | .rand => 0x04
  | .cmd => 0x05
  | .km => 0x06

/-- `zext_8` of one flag bit (R16), shifted to its place. -/
def flagBit (b : Bool) (place : Nat) : Byte := (BitVec.ofBool b).setWidth 8 <<< place

/-- `STATUS` as it is read (R24, R51): `KMV`, `OPCV`, `OK`, `ERR` in bits 0 to 3; bits 7:4 read as 0. -/
def statusByte (b : Block) : Byte :=
  flagBit b.km.valid 0 ||| flagBit b.memo.valid 1 ||| flagBit b.status.ok 2 ||| flagBit b.status.err 3

/-- The eight result registers (R31). -/
inductive ResultReg where
  | randOut
  | xres
  | autn
  | ck
  | ik
  | maca
  | ak
  | opcOut
deriving DecidableEq, Repr

/-- All of them, in the order of their addresses (R31). -/
def ResultReg.all : List ResultReg := [.randOut, .xres, .autn, .ck, .ik, .maca, .ak, .opcOut]

/-- The base address (R31). -/
def ResultReg.base : ResultReg → Nat
  | .randOut => 0x20
  | .xres => 0x30
  | .autn => 0x40
  | .ck => 0x50
  | .ik => 0x60
  | .maca => 0x70
  | .ak => 0x78
  | .opcOut => 0x80

/-- The size in bytes (R31). -/
def ResultReg.size : ResultReg → Nat
  | .randOut => 16
  | .xres => 8
  | .autn => 16
  | .ck => 16
  | .ik => 16
  | .maca => 8
  | .ak => 6
  | .opcOut => 16

/-- The register's bit of `RVALID` (R26). -/
def ResultReg.validBit : ResultReg → Nat
  | .randOut => 0
  | .xres => 1
  | .autn => 2
  | .ck => 3
  | .ik => 4
  | .maca => 5
  | .ak => 6
  | .opcOut => 7

/-- The `RVALID` value in which exactly the bits of the listed registers are set (R26). -/
def rvalidOf (regs : List ResultReg) : Byte := regs.foldr (fun r v => flagBit true r.validBit ||| v) 0x00

/-- The registers a successful `GENAV` fills (R26, R162). -/
def authVectorRegs : List ResultReg := [.randOut, .xres, .autn, .ck, .ik]

/-- Byte `i` of a result register (R31). -/
def resultByte (r : ResultReg) (i : Nat) (v : Results) : Byte :=
  match r with
  | .randOut => byteAt v.randOut i
  | .xres => byteAt v.xres i
  | .autn => byteAt v.autn i
  | .ck => byteAt v.ck i
  | .ik => byteAt v.ik i
  | .maca => byteAt v.maca i
  | .ak => byteAt v.ak i
  | .opcOut => byteAt v.opcOut i

/-- The results after the prologue (R32, R97): no result, every byte zero. -/
def clearedResults : Results :=
  { rvalid := 0x00, randOut := zeros 16, xres := zeros 8, autn := zeros 16, ck := zeros 16, ik := zeros 16,
    maca := zeros 8, ak := zeros 6, opcOut := zeros 16 }

/-- The flags and error record after the prologue (R97). -/
def clearedStatus : CommandStatus := { ok := false, err := false, errcode := 0x00, errfield := 0x00 }

/-- The flags and error record a successful command leaves (R98). -/
def successStatus : CommandStatus := { ok := true, err := false, errcode := 0x00, errfield := 0x00 }

/-- The flags and error record a failed command leaves (R99, R181). -/
def failureStatus (c : ErrClass) (f : ErrField) : CommandStatus :=
  { ok := false, err := true, errcode := errCode c, errfield := errField f }

end Sys2Proof.Machine
end

