-- ==== Sys2Proof/Config.lean ====
section
/-! DEFINITION. What an instance of the block fixes for its life (R9, R10, R35, R122, R201): the CoreFunction `E`, the
keyed hash `H` and its digest length `DLEN`, and the answers of the external random source (R188); and what the host's
software fixes, the texts of its failure messages (R92). The spec leaves all of them open, so each is an opaque constant:
no proof can see a value of it, and a theorem holds whatever it is. -/

namespace Sys2Proof

/-- The open parameters of the block, as one argument of the derivation functions (R9, R10, R115, R122). The three laws
a model may assume are in the types: `e` and `h` are total functions of their arguments, `e` answers exactly 16 bytes,
`h` exactly `dlen`; `dlen_ge` is the one constraint on `DLEN` (R10). -/
structure Params where
  /-- `E(K, B)`, the CoreFunction (R9, R115). -/
  e : Bytes 16 → Bytes 16 → Bytes 16
  /-- `DLEN` (R10). -/
  dlen : Nat
  dlen_ge : 16 ≤ dlen
  /-- `H(key, msg)`, the keyed hash (R10, R127). -/
  h : Bytes 16 → ByteString → Bytes dlen

namespace Config

/-- `E` of R9 (decision D26: OPEN). Free: nothing constrains it. Log entry 1. -/
opaque coreFunction : Bytes 16 → Bytes 16 → Bytes 16

/-- By how much `DLEN` exceeds the 16 bytes that R10 forces. Free. Log entry 2. -/
opaque dlenExcess : Nat

/-- `H` of R10 (decision D27: OPEN). Free: nothing constrains it. Log entry 2. -/
opaque keyedHash : Bytes 16 → ByteString → Bytes (16 + dlenExcess)

/-- The answer of the random source to its `n`-th request (R188: "a free 16-byte input of that step", under no law).
Free; the counter `State.draws` is its argument. Log entry 3. -/
opaque rngAnswer : Nat → Bytes 16

/-- The `message` that host software builds from the block's `ERRCODE` and `ERRFIELD` (R92; U6: any value). Free: nothing
constrains the text. Log entry 16. -/
opaque blockFailureMessage : Byte → Byte → List Char

/-- The `message` that host software builds from its own decode failure: of the field with this identifier, on this text
(R92, R93; U6: any value). Free. Log entry 16. -/
opaque decodeFailureMessage : Byte → List Char → List Char

/-- The open parameters: the constants above. -/
def params : Params where
  e := coreFunction
  dlen := 16 + dlenExcess
  dlen_ge := Nat.le_add_right 16 dlenExcess
  h := keyedHash

end Config
end Sys2Proof
end

