-- ==== Sys2Proof/Machine/Parameters.lean ====
section
/-! DEFINITION. The parameters an instance of the block runs with (R122): the open ones, or the test instantiation T that
`95_test_vectors.md` section 2 defines so that every output byte can be checked by hand (decision D30). T is not
cryptographic and is no recommendation for `E` and `H`. -/

namespace Sys2Proof.Machine

/-- Byte `i mod 16` of a 16-byte string. -/
def cyclicByte (s : Bytes 16) (i : Nat) : Byte := s[i % 16]'(Nat.mod_lt i (by decide))

/-- `E_T(K, B)[i] = (K[i] + B[(i + 1) mod 16] + i) mod 256` (section 2 of `95_test_vectors.md`). -/
def toyE (k b : Bytes 16) : Bytes 16 :=
  Vector.ofFn fun i => k[i] + cyclicByte b (i.val + 1) + BitVec.ofNat 8 i.val

/-- `A`: the sum of the message's bytes, mod 256. -/
def toySum : ByteString → Byte
  | [] => 0
  | v :: rest => v + toySum rest

/-- `W`: the sum of the message's bytes, each times its place, the first byte's place being `place`, mod 256. -/
def toyWeighted (place : Byte) : ByteString → Byte
  | [] => 0
  | v :: rest => place * v + toyWeighted (place + 1) rest

/-- `H_T(key, msg)[j] = key[j mod 16] XOR ((A + j*W + (j + 1)*L) mod 256)`, 32 bytes. -/
def toyH (key : Bytes 16) (msg : ByteString) : Bytes 32 :=
  Vector.ofFn fun j =>
    cyclicByte key j.val ^^^
      (toySum msg + BitVec.ofNat 8 j.val * toyWeighted 1 msg + BitVec.ofNat 8 (j.val + 1) * BitVec.ofNat 8 msg.length)

/-- The test instantiation T, `DLEN_T = 32`. -/
def toyParams : Params where
  e := toyE
  dlen := 32
  dlen_ge := by decide
  h := toyH

/-- The parameters of a machine with the given functions plugged in. -/
def paramsOf : Instantiation → Params
  | .free => Config.params
  | .testT => toyParams

end Sys2Proof.Machine
end

