-- ==== Sys2Proof/Machine/Ops.lean ====
section
/-! DEFINITION. The shared operations: the result of a command body and the command frame (R96 to R100), raising a
failure (R181), the OPc derivation and its memo (R117, R119), the keyed-hash helper and f1 to f5 (R127, R130, R139 to
R143), the random draw (R188), the operand selections (R129, R156, R157), the AUTN assembler (R159, R160), reset (R200)
and the address map with its reads and pushes (R51, R52, R56). -/

namespace Sys2Proof.Machine

/-! ### The outcome of a command body -/

/-- What a part of a command body answers (R17, R96): a value and the state so far; a failure of class `c` on field `f`,
with the state the checks have left (a draw may have been made, R162); or no answer of the random source (R188). -/
inductive Body (α : Type) where
  | success (a : α) (s : State)
  | failure (c : ErrClass) (f : ErrField) (s : State)
  | stuck (r : Fault)
deriving Repr

/-- Sequencing in a body: a failure ends the body at that point (R181). -/
def Body.andThen {α β : Type} (b : Body α) (k : α → State → Body β) : Body β :=
  match b with
  | .success a s => k a s
  | .failure c f s => .failure c f s
  | .stuck r => .stuck r

/-- A check: `if not cond then raise c(f)` (R181, R182). -/
def require (cond : Bool) (c : ErrClass) (f : ErrField) (s : State) : Body Unit :=
  if cond then .success () s else .failure c f s

/-! ### The command frame -/

/-- The state with its block changed by `g`; host and random source as they were. -/
def onBlock (g : Block → Block) (s : State) : State := { s with block := g s.block }

/-- `Prologue()` of R97: results, `RVALID`, flags and error record cleared. It is also all there is to a return from a
failure: the next command's prologue clears the record (R183). -/
def prologue (b : Block) : Block := { b with results := clearedResults, status := clearedStatus }

/-- `EpilogueSuccess()` of R98: `OK <- 1`. -/
def epilogueSuccess (b : Block) : Block := { b with status := { b.status with ok := true } }

/-- `EpilogueFailure(class, field)` of R99. -/
def epilogueFailure (c : ErrClass) (f : ErrField) (b : Block) : Block :=
  { b with status := { b.status with err := true, errcode := errCode c, errfield := errField f } }

/-- `ClearStaging()` of R100. -/
def clearStaging (b : Block) : Block := { b with staging := clearedStaging }

/-- Taking a failure (R181), the block's one exception: the record is written and staging is cleared. There is no
handler, no vector and no mode to enter; control goes nowhere. -/
def takeFailure (c : ErrClass) (f : ErrField) (s : State) : State :=
  onBlock (fun b => clearStaging (epilogueFailure c f b)) s

/-- Ending in success: R98, then R100. -/
def finishSuccess (s : State) : State := onBlock (fun b => clearStaging (epilogueSuccess b)) s

/-- `ExecCommand` of R96 around a body: prologue, body, epilogue, staging cleared. A body that is stuck waiting for the
random source never completes (R96, R188). -/
def runCommand (body : State → Body Unit) (s : State) : Host.Outcome State Fault Refusal :=
  match body (onBlock prologue s) with
  | .success _ t => .next (finishSuccess t)
  | .failure c f t => .next (takeFailure c f t)
  | .stuck r => .fault r

/-- The body of an illegal command byte (R76, R77, R96): `raise IllegalCommand(CMD)`. -/
def illegalBody (s : State) : Body Unit := .failure .illegalCommand .cmd s

/-! ### OPc derivation and its memo -/

/-- `DeriveOPc(K, OP) = E(K, OP) xor OP` (R117). -/
def deriveOpc (P : Params) (k op : Bytes 16) : Bytes 16 := xorBytes (P.e k op) op

/-- The memo after `EnsureOPc()` (R119): computed once per KeyMaterial, then kept. -/
def ensureOpc (P : Params) (km : KeyMaterial) (m : Memo) : Memo :=
  if m.valid then m else { opc := deriveOpc P km.k km.op, valid := true }

/-- `opc <- EnsureOPc()` in a body (R119). -/
def obtainOpc (P : Params) (s : State) : Body (Bytes 16) :=
  let m := ensureOpc P s.block.km s.block.memo
  .success m.opc (onBlock (fun b => { b with memo := m }) s)

/-- The check `KM_VALID = 1` (R180, R182 order 2). -/
def requireKeyMaterial (s : State) : Body Unit := require s.block.km.valid .noKeyMaterial .km s

/-! ### The keyed-hash helper and f1 to f5 -/

/-- `KDF(opc, msg, n) = take(n, H(opc, msg))` (R127, R128). -/
def kdf (P : Params) (opc : Bytes 16) (msg : ByteString) (n : Nat) (h : n ≤ 16) : Bytes n :=
  takeLeading n (P.h opc msg) (Nat.le_trans h P.dlen_ge)

/-- The message of f1 (R130): `rand || sqn || amf`, 24 bytes. -/
def f1Message (rand : Bytes 16) (sqn : Bytes 6) (amf : Bytes 2) : ByteString :=
  rand.toList ++ sqn.toList ++ amf.toList

/-- The message of f2 (R140): `rand` alone, 16 bytes. -/
def f2Message (rand : Bytes 16) : ByteString := rand.toList

/-- The message of f3, f4 and f5 (R141 to R143): `rand`, then one domain-separation byte, 17 bytes. -/
def taggedMessage (rand : Bytes 16) (tag : Byte) : ByteString := rand.toList ++ [tag]

/-- f1, MAC-A (R130). -/
def f1 (P : Params) (opc rand : Bytes 16) (sqn : Bytes 6) (amf : Bytes 2) : Bytes 8 :=
  kdf P opc (f1Message rand sqn amf) 8 (by decide)

/-- f2, RES (R140). -/
def f2 (P : Params) (opc rand : Bytes 16) : Bytes 8 := kdf P opc (f2Message rand) 8 (by decide)

/-- f3, CK (R141). -/
def f3 (P : Params) (opc rand : Bytes 16) : Bytes 16 := kdf P opc (taggedMessage rand 0x01) 16 (by decide)

/-- f4, IK (R142). -/
def f4 (P : Params) (opc rand : Bytes 16) : Bytes 16 := kdf P opc (taggedMessage rand 0x02) 16 (by decide)

/-- f5, AK (R143). -/
def f5 (P : Params) (opc rand : Bytes 16) : Bytes 6 := kdf P opc (taggedMessage rand 0x03) 6 (by decide)

/-! ### The random source -/

/-- The source's answer to its `n`-th request, and the source afterwards; none when it does not answer (R188). -/
def sourceAnswer (n : Nat) : RandomSource → Option (Bytes 16 × RandomSource)
  | .silent => none
  | .free => some (Config.rngAnswer n, .free)
  | .fixed [] => none
  | .fixed (d :: rest) => some (d, .fixed rest)

/-- `RngDraw()` (R188). A source that does not answer leaves the command, and the block, stuck. -/
def rngDraw (s : State) : Body (Bytes 16) :=
  match sourceAnswer s.draws s.source with
  | none => .stuck .randomSourceSilent
  | some (d, src) => .success d { s with source := src, draws := s.draws + 1 }

/-! ### Operands taken from staging -/

/-- RAND taken from staging: `RANDCNT = 16` or `InvalidInputLength(RAND)` (R129, R179). -/
def stagedRand (s : State) : Body (Bytes 16) :=
  (require (s.block.staging.rand.cnt == 16) .invalidInputLength .rand s).andThen fun _ s =>
    .success s.block.staging.rand.buf s

/-- SQN taken from staging: `SQNCNT = 6` or `InvalidInputLength(SQN)` (R129, R179). -/
def stagedSqn (s : State) : Body (Bytes 6) :=
  (require (s.block.staging.sqn.cnt == 6) .invalidInputLength .sqn s).andThen fun _ s =>
    .success s.block.staging.sqn.buf s

/-- `SelectRand(RANDP)` (R156): staged when present, drawn when absent. -/
def selectRand (randp : Bool) (s : State) : Body (Bytes 16) := if randp then stagedRand s else rngDraw s

/-- `SelectSqn(SQNP)` (R157): staged when present, `0^6` when absent. -/
def selectSqn (sqnp : Bool) (s : State) : Body (Bytes 6) := if sqnp then stagedSqn s else .success (zeros 6) s

/-- The last act of a body that writes results (R121, R131, R145 to R148, R162): the registers named by `g`, and
`RVALID` with the bits of `regs`. -/
def writeResults (regs : List ResultReg) (g : Results → Results) (s : State) : Body Unit :=
  .success () (onBlock (fun b => { b with results := { g b.results with rvalid := rvalidOf regs } }) s)

/-! ### The AUTN assembler -/

/-- `ConcealSqn(sqn, ak) = sqn xor ak` (R159). -/
def concealSqn (sqn ak : Bytes 6) : Bytes 6 := xorBytes sqn ak

/-- `AssembleAutn(sqn, ak, amf, mac)` (R160, R161): 6 + 2 + 8 bytes. -/
def assembleAutn (sqn ak : Bytes 6) (amf : Bytes 2) (mac : Bytes 8) : Bytes 16 :=
  catBytes (catBytes (concealSqn sqn ak) amf) mac

/-! ### Reset and the register space -/

/-- The reset input (R200): every piece of the block's state at its reset value. Neither the host nor the random source
is touched (R201; log entry 7). -/
def applyReset (s : State) : State := { s with block := Block.reset }

/-- What an address of the register space names (R56). -/
inductive Location where
  | cmd
  | status
  | errcode
  | errfield
  | rvalid
  | pushPort (x : Operand)
  | counter (x : Operand)
  /-- Byte `i` of the constant `AMF`. -/
  | amf (i : Nat)
  /-- Byte `i` of a result register. -/
  | result (r : ResultReg) (i : Nat)
  | unmapped
deriving DecidableEq, Repr

/-- Where the result registers lie (R31): byte `i` of the value is at `base + i` (R53). -/
def locateResult (n : Nat) : Location :=
  match ResultReg.all.find? fun r => decide (r.base ≤ n ∧ n < r.base + r.size) with
  | some r => .result r (n - r.base)
  | none => .unmapped

/-- The address map of R56; everything not listed there is unmapped. -/
def locate (a : Byte) : Location :=
  match a.toNat with
  | 0x00 => .cmd
  | 0x01 => .status
  | 0x02 => .errcode
  | 0x03 => .errfield
  | 0x04 => .rvalid
  | 0x08 => .pushPort .k
  | 0x09 => .pushPort .op
  | 0x0A => .pushPort .rand
  | 0x0B => .pushPort .sqn
  | 0x0C => .counter .k
  | 0x0D => .counter .op
  | 0x0E => .counter .rand
  | 0x0F => .counter .sqn
  | 0x10 => .amf 0
  | 0x11 => .amf 1
  | n => locateResult n

/-- `MemRead(a, 1)` of R51: one byte, for every address. Write-only and unmapped addresses read as `0x00` (R57). -/
def memRead (b : Block) (a : Byte) : Byte :=
  match locate a with
  | .cmd => 0x00
  | .status => statusByte b
  | .errcode => b.status.errcode
  | .errfield => b.status.errfield
  | .rvalid => b.results.rvalid
  | .pushPort _ => 0x00
  | .counter x => pushCount x b.staging
  | .amf i => byteAt amfConst i
  | .result r i => resultByte r i b.results
  | .unmapped => 0x00

/-- A host write to a push port (R27, R52). -/
def pushPortWrite (x : Operand) (v : Byte) (s : State) : State :=
  onBlock (fun b => { b with staging := pushOperand x v b.staging }) s

/-- A host read as a transaction (R51, R80): the byte goes back to the host, and the block is unchanged. -/
def hostRead (a : Byte) (s : State) : Byte × State :=
  let v := memRead s.block a
  (v, { s with returned := s.returned ++ [v] })

end Sys2Proof.Machine
end

