-- ==== Sys2Proof/Machine/Clr.lean ====
section
/-! DEFINITION. `CLR` (R101). -/

namespace Sys2Proof.Machine

/-- `Body(CLR)`: nothing; the frame does the clearing (R101). -/
def clrBody (s : State) : Body Unit := .success () s

/-- `CLR` (R101). The KeyMaterial slot and the memo are kept. -/
def execClr (s : State) : Host.Outcome State Fault Refusal := runCommand clrBody s

end Sys2Proof.Machine
end

