-- ==== Sys2Proof/Machine/Derivers.lean ====
section
/-! DEFINITION. `F2` to `F5`: RES, CK, IK and AK (R145 to R149). -/

namespace Sys2Proof.Machine

/-- `Body(Fn)` of R149: the one body of `F2` to `F5`, with the register written and how it is computed. -/
def deriverBody (P : Params) (reg : ResultReg) (put : (opc rand : Bytes 16) → Results → Results) (s : State) :
    Body Unit :=
  (requireKeyMaterial s).andThen fun _ s =>
  (stagedRand s).andThen fun rand s =>
  (obtainOpc P s).andThen fun opc s =>
    writeResults [reg] (put opc rand) s

/-- `Body(F2)` (R145): `XRES <- f2(opc, rand)`. -/
def f2Body (P : Params) : State → Body Unit :=
  deriverBody P .xres fun opc rand r => { r with xres := f2 P opc rand }

/-- `Body(F3)` (R146): `CK <- f3(opc, rand)`. -/
def f3Body (P : Params) : State → Body Unit :=
  deriverBody P .ck fun opc rand r => { r with ck := f3 P opc rand }

/-- `Body(F4)` (R147): `IK <- f4(opc, rand)`. -/
def f4Body (P : Params) : State → Body Unit :=
  deriverBody P .ik fun opc rand r => { r with ik := f4 P opc rand }

/-- `Body(F5)` (R148): `AK <- f5(opc, rand)`. -/
def f5Body (P : Params) : State → Body Unit :=
  deriverBody P .ak fun opc rand r => { r with ak := f5 P opc rand }

/-- `F2` (R145). -/
def execF2 (s : State) : Host.Outcome State Fault Refusal := runCommand (f2Body (paramsOf s.inst)) s

/-- `F3` (R146). -/
def execF3 (s : State) : Host.Outcome State Fault Refusal := runCommand (f3Body (paramsOf s.inst)) s

/-- `F4` (R147). -/
def execF4 (s : State) : Host.Outcome State Fault Refusal := runCommand (f4Body (paramsOf s.inst)) s

/-- `F5` (R148). -/
def execF5 (s : State) : Host.Outcome State Fault Refusal := runCommand (f5Body (paramsOf s.inst)) s

end Sys2Proof.Machine
end

