-- ==== Sys2Proof/Machine/GenAv.lean ====
section
/-! DEFINITION. `GENAV`: the whole authentication vector (R155 to R163). -/

namespace Sys2Proof.Machine

/-- The five registers of the AuthVector (R162 steps 5 to 8, R163): RAND as used, RES as XRES, AUTN, CK, IK. -/
def putAuthVector (P : Params) (opc rand : Bytes 16) (sqn : Bytes 6) (amf : Bytes 2) (r : Results) : Results :=
  { r with
    randOut := rand
    xres := f2 P opc rand
    autn := assembleAutn sqn (f5 P opc rand) amf (f1 P opc rand sqn amf)
    ck := f3 P opc rand
    ik := f4 P opc rand }

/-- `Body(GENAV, SQNP, RANDP)` of R162: KeyMaterial; RAND (step 1, which may draw) before SQN (step 2); the constant AMF
(step 3); OPc (step 4); then the vector (steps 5 to 8). -/
def genavBody (P : Params) (sqnp randp : Bool) (s : State) : Body Unit :=
  (requireKeyMaterial s).andThen fun _ s =>
  (selectRand randp s).andThen fun rand s =>
  (selectSqn sqnp s).andThen fun sqn s =>
  (obtainOpc P s).andThen fun opc s =>
    writeResults authVectorRegs (putAuthVector P opc rand sqn amfConst) s

/-- `GENAV` (R162). -/
def execGenav (sqnp randp : Bool) (s : State) : Host.Outcome State Fault Refusal :=
  runCommand (genavBody (paramsOf s.inst) sqnp randp) s

end Sys2Proof.Machine
end

