-- ==== Sys2Proof/Machine/LoadKey.lean ====
section
/-! DEFINITION. `LOADKEY`: KeyMaterial (R105 to R111). -/

namespace Sys2Proof.Machine

/-- A new KeyMaterial instance in the slot (R106), and with it an empty memo (R109). `E` is not evaluated (R110). -/
def constructKeyMaterial (k op : Bytes 16) (b : Block) : Block :=
  { b with km := { k := k, op := op, valid := true }, memo := { opc := zeros 16, valid := false } }

/-- `Body(LOADKEY, OPP, KP)` of R106, with its checks in the order of R182. -/
def loadkeyBody (opp kp : Bool) (s : State) : Body Unit :=
  (require opp .missingParameter .op s).andThen fun _ s =>
  (require kp .missingParameter .key s).andThen fun _ s =>
  (require (s.block.staging.op.cnt == 16) .invalidKeyLength .op s).andThen fun _ s =>
  (require (s.block.staging.k.cnt == 16) .invalidKeyLength .key s).andThen fun _ s =>
    .success () (onBlock (fun b => constructKeyMaterial b.staging.k.buf b.staging.op.buf b) s)

/-- `LOADKEY` (R106). -/
def execLoadkey (opp kp : Bool) (s : State) : Host.Outcome State Fault Refusal := runCommand (loadkeyBody opp kp) s

end Sys2Proof.Machine
end

