-- ==== Sys2Proof/Machine/MacA.lean ====
section
/-! DEFINITION. `F1`: MAC-A (R131). -/

namespace Sys2Proof.Machine

/-- `Body(F1)` of R131: both staged operands are required, RAND checked before SQN. -/
def f1Body (P : Params) (s : State) : Body Unit :=
  (requireKeyMaterial s).andThen fun _ s =>
  (stagedRand s).andThen fun rand s =>
  (stagedSqn s).andThen fun sqn s =>
  (obtainOpc P s).andThen fun opc s =>
    writeResults [.maca] (fun r => { r with maca := f1 P opc rand sqn amfConst }) s

/-- `F1` (R131). -/
def execF1 (s : State) : Host.Outcome State Fault Refusal := runCommand (f1Body (paramsOf s.inst)) s

end Sys2Proof.Machine
end

