-- ==== Sys2Proof/Machine/OpcCommand.lean ====
section
/-! DEFINITION. `OPC`: derive OPc and expose it (R121). -/

namespace Sys2Proof.Machine

/-- `Body(OPC)` of R121. -/
def opcBody (P : Params) (s : State) : Body Unit :=
  (requireKeyMaterial s).andThen fun _ s =>
  (obtainOpc P s).andThen fun opc s =>
    writeResults [.opcOut] (fun r => { r with opcOut := opc }) s

/-- `OPC` (R121). -/
def execOpc (s : State) : Host.Outcome State Fault Refusal := runCommand (opcBody (paramsOf s.inst)) s

end Sys2Proof.Machine
end

