-- ==== Sys2Proof/Machine/Dispatch.lean ====
section
/-! DEFINITION. One arm per command of R78. -/

namespace Sys2Proof.Machine

/-- `ExecCommand` (R96) of a decoded command. -/
def exec (i : Instr) (s : State) : Host.Outcome State Fault Refusal :=
  match i with
  | .clr => Sys2Proof.Machine.execClr s
  | .loadkey opp kp => Sys2Proof.Machine.execLoadkey opp kp s
  | .opc => Sys2Proof.Machine.execOpc s
  | .f1 => Sys2Proof.Machine.execF1 s
  | .f2 => Sys2Proof.Machine.execF2 s
  | .f3 => Sys2Proof.Machine.execF3 s
  | .f4 => Sys2Proof.Machine.execF4 s
  | .f5 => Sys2Proof.Machine.execF5 s
  | .genav sqnp randp => Sys2Proof.Machine.execGenav sqnp randp s

end Sys2Proof.Machine
end

