-- ==== Sys2Proof/Machine/Transact.lean ====
section
/-! DEFINITION. The host's transactions (R6, R51, R52, R80, R200): what each does to the machine, and which one is
next. -/

namespace Sys2Proof.Machine

/-- `ExecCommand(c)` (R96), the effect of writing `c` to `CMD`: a legal byte runs its command, an illegal one the failing
command of R76 and R77. -/
def execCommand (c : Byte) (s : State) : Host.Outcome State Fault Refusal :=
  match decode c with
  | .instr i => exec i s
  | .illegal _ => runCommand illegalBody s

/-- `MemWrite(a, 1, v)` of R52: `CMD` and the four push ports accept a write; any other write has no effect (R57). -/
def memWrite (a v : Byte) (s : State) : Host.Outcome State Fault Refusal :=
  match locate a with
  | .cmd => execCommand v s
  | .pushPort x => .next (pushPortWrite x v s)
  | .status => .next s
  | .errcode => .next s
  | .errfield => .next s
  | .rvalid => .next s
  | .counter _ => .next s
  | .amf _ => .next s
  | .result _ _ => .next s
  | .unmapped => .next s

/-- One host transaction, atomic and complete (R6, R59). -/
def transact (t : Transaction) (s : State) : Host.Outcome State Fault Refusal :=
  match t with
  | .read a => .next (hostRead a s).2
  | .write a v => memWrite a v s
  | .reset => .next (applyReset s)

/-- The transaction the host issues next, and the machine without it; none when the host issues none (R59: in the order in
which the host issues them). -/
def nextTransaction (s : State) : Option (Transaction × State) :=
  match s.script with
  | [] => none
  | t :: rest => some (t, { s with script := rest })

end Sys2Proof.Machine
end

