-- ==== Sys2Proof/Machine/Step.lean ====
section
/-! DEFINITION. One step of the machine: one host transaction (R6, R7). -/

namespace Sys2Proof.Machine

/-- One step: the next host transaction takes effect; with none pending the block is idle and holds its state (R191). -/
def step (s : State) : Host.Outcome State Fault Refusal :=
  match nextTransaction s with
  | none => .next s
  | some (t, s') => transact t s'

/-- `s` with the host about to write the command byte whose bits are `w` to `CMD` (R70, R95): the only way a command is
started, since the block fetches nothing (R21). The pending transactions follow it. Log entry 5. -/
def State.withFetchWord (s : State) (nbits w : Nat) : State :=
  { s with script := .write 0x00 (BitVec.ofNat 8 (w % 2 ^ nbits)) :: s.script }

end Sys2Proof.Machine
end

