-- ==== Sys2Proof/Machine/Script.lean ====
section
/-! DEFINITION. Host scripts (R80 to R84, R211): the macros `PUSH`, `ISSUE` and `READ` as lists of transactions, and the
run of a script from a state. The primitive lines `WR`, `RD` and `RESET` are the constructors of `Transaction`; `EXPECT`
(R85) is no transaction. -/

namespace Sys2Proof.Machine

/-- `PUSH X, <bytes>` (R82): one write to the operand's push port per byte, first byte first. -/
def pushScript (x : Operand) (bytes : ByteString) : List Transaction :=
  bytes.map fun v => .write x.pushPort v

/-- `ISSUE <mnemonic and flags>` (R83): the command byte of R81 written to `CMD`. -/
def issueScript (i : Instr) : List Transaction := [.write 0x00 (encode i)]

/-- The `n` addresses from `base` on, in address order (R84). -/
def addressRange (base n : Nat) : List Byte := (List.range n).map fun i => BitVec.ofNat 8 (base + i)

/-- `READ R` for a result register (R84). -/
def readScript (r : ResultReg) : List Transaction := (addressRange r.base r.size).map .read

/-- `READ AMF` (R56, R84). -/
def readAmfScript : List Transaction := (addressRange 0x10 2).map .read

/-- A script executed top to bottom (R80, R211): it ends when its last transaction has completed; a write to `CMD` that
never completes has no end state. -/
def runScript : List Transaction → State → Host.Outcome State Fault Refusal
  | [], s => .next s
  | t :: rest, s =>
    match transact t s with
    | .next s' => runScript rest s'
    | .fault r => .fault r
    | .refused r => .refused r

end Sys2Proof.Machine
end

