-- ==== Sys2Proof/Machine/HostDriver.lean ====
section
/-! DEFINITION. The host-side pseudo-operations of `30_encoding.md` section 5 (R86 to R93): loading a KeyMaterial,
generating a vector, the hex codec, and serving one request. They are host software and no part of the block; each acts on
the block only through transactions. The text of a failure message (R92) is a free value: log entry 16. -/

namespace Sys2Proof.Machine

/-- What a pseudo-operation returns to its caller (R86, R87): a result, or the failure's `ERRCODE` and `ERRFIELD`. -/
inductive DriverResult (α : Type) where
  | success (a : α)
  | failure (errcode errfield : Byte)
deriving DecidableEq, Repr

/-- The answer of a pseudo-operation: the result with the state it leaves, or the stop of one of its transactions. -/
abbrev DriverOutcome (α : Type) := Host.Outcome (DriverResult α × State) Fault Refusal

/-- The byte strings of an authentication vector, as read from the five registers (R87). -/
structure AuthVector where
  rand : ByteString
  xres : ByteString
  autn : ByteString
  ck : ByteString
  ik : ByteString
deriving DecidableEq, Repr

/-- Reads of several addresses, in order (R84): the bytes returned and the state after. -/
def hostReadMany : List Byte → State → ByteString × State
  | [], s => ([], s)
  | a :: rest, s =>
    let (v, s) := hostRead a s
    let (vs, s) := hostReadMany rest s
    (v :: vs, s)

/-- `READ R -> x` (R84). -/
def hostReadReg (r : ResultReg) (s : State) : ByteString × State := hostReadMany (addressRange r.base r.size) s

/-- `RD STATUS -> s`, then, if `s[3] = 1`, `RD ERRCODE -> e; RD ERRFIELD -> f; return Failure(e, f)` (R86, R87); if not,
the rest of the pseudo-operation. -/
def checkOutcome {α : Type} (s : State) (onSuccess : State → DriverOutcome α) : DriverOutcome α :=
  let (status, s) := hostRead 0x01 s
  if status.getLsbD 3 then
    let (e, s) := hostRead 0x02 s
    let (f, s) := hostRead 0x03 s
    .next (.failure e f, s)
  else onSuccess s

/-- Runs a script and goes on from its end state (R211). -/
def afterScript {α : Type} (ts : List Transaction) (s : State) (k : State → DriverOutcome α) : DriverOutcome α :=
  match runScript ts s with
  | .next s' => k s'
  | .fault r => .fault r
  | .refused r => .refused r

/-- `PUSH X, bytes` if the operand is present, nothing if it is absent (R86, R87). -/
def pushIfPresent (x : Operand) : Option ByteString → List Transaction
  | none => []
  | some bytes => pushScript x bytes

/-- The transactions of `LOAD_KEYMATERIAL(op?, key?)` up to its command (R86). -/
def loadKeyScript (op key : Option ByteString) : List Transaction :=
  pushIfPresent .op op ++ pushIfPresent .k key ++ issueScript (.loadkey op.isSome key.isSome)

/-- `LOAD_KEYMATERIAL(op?, key?)` (R86). -/
def loadKeyMaterial (op key : Option ByteString) (s : State) : DriverOutcome Unit :=
  afterScript (loadKeyScript op key) s fun s => checkOutcome s fun s => .next (.success (), s)

/-- The reads that end `GENERATE_AV` (R87). -/
def readVector (s : State) : AuthVector × State :=
  let (rand, s) := hostReadReg .randOut s
  let (xres, s) := hostReadReg .xres s
  let (autn, s) := hostReadReg .autn s
  let (ck, s) := hostReadReg .ck s
  let (ik, s) := hostReadReg .ik s
  ({ rand := rand, xres := xres, autn := autn, ck := ck, ik := ik }, s)

/-- The transactions of `GENERATE_AV(sqn?, rand?)` up to its command (R87). -/
def generateAvScript (sqn rand : Option ByteString) : List Transaction :=
  pushIfPresent .rand rand ++ pushIfPresent .sqn sqn ++ issueScript (.genav sqn.isSome rand.isSome)

/-- `GENERATE_AV(sqn?, rand?)` (R87). -/
def generateAv (sqn rand : Option ByteString) (s : State) : DriverOutcome AuthVector :=
  afterScript (generateAvScript sqn rand) s fun s => checkOutcome s fun s =>
    let (av, s) := readVector s
    .next (.success av, s)

/-! ### The hex codec and the request -/

/-- The value of a hex digit: `0-9`, `a-f` and `A-F`; any other character is refused (R88, recommended). -/
def hexValue (c : Char) : Option Nat :=
  let n := c.toNat
  if 48 ≤ n ∧ n ≤ 57 then some (n - 48)
  else if 65 ≤ n ∧ n ≤ 70 then some (n - 55)
  else if 97 ≤ n ∧ n ≤ 102 then some (n - 87)
  else none

/-- Hex decoding (R88): characters `2i` and `2i+1` give byte `i`, high-order digit first; an odd length is refused. -/
def decodeHex : List Char → Option ByteString
  | [] => some []
  | [_] => none
  | hi :: lo :: rest =>
    match hexValue hi, hexValue lo, decodeHex rest with
    | some h, some l, some bytes => some (BitVec.ofNat 8 (16 * h + l) :: bytes)
    | _, _, _ => none

/-- An upper-case hex digit (R89). -/
def hexDigit (n : Nat) : Char := if n < 10 then Char.ofNat (48 + n) else Char.ofNat (55 + n)

/-- Hex encoding (R89): two upper-case digits a byte, high-order digit first. -/
def encodeHex (bytes : ByteString) : List Char :=
  bytes.flatMap fun b => [hexDigit (b.toNat / 16), hexDigit (b.toNat % 16)]

/-- The request record (R90): hex strings, the two optional fields and the two required ones alike possibly absent. -/
structure Request where
  op : Option (List Char)
  secretKey : Option (List Char)
  sqn : Option (List Char)
  rand : Option (List Char)
deriving DecidableEq, Repr

/-- The failure record of R92: `{ error: true, message: string }`. -/
structure FailureRecord where
  error : Bool
  message : List Char
deriving DecidableEq, Repr

/-- What serving a request returns: the success record, five upper-case hex strings (R91); or `Failure(class, field)`
(R90) with the failure record that is its answer to the requester (R92). -/
inductive Response where
  | success (rand xres autn ck ik : List Char)
  | failure (errcode errfield : Byte) (record : FailureRecord)
deriving DecidableEq, Repr

/-- The answer to a failure that the block reported: the record's `message` is built from (`ERRCODE`, `ERRFIELD`) (R92). -/
def blockFailure (errcode errfield : Byte) : Response :=
  .failure errcode errfield { error := true, message := Config.blockFailureMessage errcode errfield }

/-- The answer to a field whose text does not decode: `MalformedInput` on that field (R90, R93), the record's `message`
built from the decode failure (R92). -/
def decodeFailure (f : ErrField) (text : List Char) : Response :=
  .failure (errCode .malformedInput) (errField f)
    { error := true, message := Config.decodeFailureMessage (errField f) text }

/-- Step 1 of R90 on one field: an absent field stays absent; a field that does not decode ends the request. -/
def decodeField (f : ErrField) (x : Option (List Char)) : Except Response (Option ByteString) :=
  match x with
  | none => .ok none
  | some text =>
    match decodeHex text with
    | some bytes => .ok (some bytes)
    | none => .error (decodeFailure f text)

/-- The success record of a vector (R91). -/
def encodeVector (av : AuthVector) : Response :=
  .success (encodeHex av.rand) (encodeHex av.xres) (encodeHex av.autn) (encodeHex av.ck) (encodeHex av.ik)

/-- Steps 2 to 4 of R90, on decoded fields; a failure of the block is answered with its record (R92). -/
def serveDecoded (op key sqn rand : Option ByteString) (s : State) :
    Host.Outcome (Response × State) Fault Refusal :=
  match loadKeyMaterial op key s with
  | .fault r => .fault r
  | .refused r => .refused r
  | .next (.failure e f, s) => .next (blockFailure e f, s)
  | .next (.success _, s) =>
    match generateAv sqn rand s with
    | .fault r => .fault r
    | .refused r => .refused r
    | .next (.failure e f, s) => .next (blockFailure e f, s)
    | .next (.success av, s) => .next (encodeVector av, s)

/-- Serving one request (R90): a decode failure is returned without touching the block, the fields being tried in the
order of the request record (log entry 13). -/
def serveRequest (q : Request) (s : State) : Host.Outcome (Response × State) Fault Refusal :=
  match decodeField .op q.op, decodeField .key q.secretKey, decodeField .sqn q.sqn, decodeField .rand q.rand with
  | .error r, _, _, _ => .next (r, s)
  | .ok _, .error r, _, _ => .next (r, s)
  | .ok _, .ok _, .error r, _ => .next (r, s)
  | .ok _, .ok _, .ok _, .error r => .next (r, s)
  | .ok op, .ok key, .ok sqn, .ok rand => serveDecoded op key sqn rand s

end Sys2Proof.Machine
end

