-- ==== Sys2Proof/Safety.lean ====
section
/-! DEFINITION. What claims about a run are stated in: the invariants of R36 and the value sets of R26 and R175, the
public part of the block (R38), and the conditions under which each command executes normally (R103). -/

namespace Sys2Proof.Machine

/-- R36 (f) for one operand: every buffer byte at an index at or past the counter is zero. -/
def StagingClean {cap : Nat} (x : Staging cap) : Prop :=
  ∀ i : Fin cap, x.cnt.toNat ≤ i.val → x.buf[i] = 0x00

/-- R36 (e) for one register: without its `RVALID` bit every byte is zero. -/
def ResultClean (r : ResultReg) (v : Results) : Prop :=
  v.rvalid.getLsbD r.validBit = false → ∀ i : Nat, resultByte r i v = 0x00

/-- The only values `RVALID` ever takes (R26). -/
def rvalidValues : List Byte := [0x00, 0x1F, 0x20, 0x02, 0x08, 0x10, 0x40, 0x80]

/-- The only (`ERRCODE`, `ERRFIELD`) pairs the block ever produces (R175). -/
def errorPairs : List (Byte × Byte) :=
  [(0, 0), (1, 1), (1, 2), (3, 1), (3, 2), (4, 3), (4, 4), (5, 5), (6, 6)]

/-- R36 (b): a valid memo holds the OPc of the slot's KeyMaterial. -/
def MemoCoherent (P : Params) (b : Block) : Prop :=
  b.memo.valid = true → b.memo.opc = deriveOpc P b.km.k b.km.op

/-- The invariants (a) to (f) of R36, clause by clause. Clause (g) is about a step. -/
structure BlockInv (P : Params) (b : Block) : Prop where
  memo_needs_key : b.memo.valid = true → b.km.valid = true
  memo_coherent : MemoCoherent P b
  memo_empty : b.memo.valid = false → b.memo.opc = zeros 16
  key_empty : b.km.valid = false → b.km.k = zeros 16 ∧ b.km.op = zeros 16
  not_both : ¬ (b.status.ok = true ∧ b.status.err = true)
  err_iff_code : b.status.err = true ↔ b.status.errcode ≠ 0x00
  err_no_result : b.status.err = true → b.results.rvalid = 0x00
  results_clean : ∀ r : ResultReg, ResultClean r b.results
  staging_clean :
    StagingClean b.staging.k ∧ StagingClean b.staging.op ∧ StagingClean b.staging.rand ∧ StagingClean b.staging.sqn

/-- The value sets of R24 (reserved bits), R26 and R175. -/
structure LegalValues (b : Block) : Prop where
  rvalid : b.results.rvalid ∈ rvalidValues
  errors : (b.status.errcode, b.status.errfield) ∈ errorPairs
  reserved : (statusByte b).extractLsb' 4 4 = 0#4

/-- Two blocks agree on everything a host can read (R38): the counters, `STATUS`, the error record, `RVALID` and the
result registers. -/
structure SamePublic (b c : Block) : Prop where
  counters : ∀ x : Operand, pushCount x b.staging = pushCount x c.staging
  kmv : b.km.valid = c.km.valid
  opcv : b.memo.valid = c.memo.valid
  status : b.status = c.status
  results : b.results = c.results

/-- The block after a successful command (R97, R98, R100): results `r`, memo `m`, KeyMaterial `km`. -/
def blockAfterSuccess (km : KeyMaterial) (m : Memo) (r : Results) : Block :=
  { staging := clearedStaging, km := km, memo := m, status := successStatus, results := r }

/-- The block after a failed command (R181): slot and memo kept. -/
def blockAfterFailure (c : ErrClass) (f : ErrField) (b : Block) : Block :=
  { staging := clearedStaging, km := b.km, memo := b.memo, status := failureStatus c f, results := clearedResults }

/-- The commands that need a KeyMaterial (R180, R182): `OPC`, `F1` to `F5`, `GENAV`. -/
def needsKeyMaterial : Instr → Bool
  | .clr => false
  | .loadkey _ _ => false
  | .opc => true
  | .f1 => true
  | .f2 => true
  | .f3 => true
  | .f4 => true
  | .f5 => true
  | .genav _ _ => true

/-- The result registers a successful command fills (R26, R103). -/
def filledRegs : Instr → List ResultReg
  | .clr => []
  | .loadkey _ _ => []
  | .opc => [.opcOut]
  | .f1 => [.maca]
  | .f2 => [.xres]
  | .f3 => [.ck]
  | .f4 => [.ik]
  | .f5 => [.ak]
  | .genav _ _ => authVectorRegs

/-- The commands that ask the random source for RAND when a KeyMaterial is held (R103, R162, R188). -/
def drawsRand : Instr → Bool
  | .clr => false
  | .loadkey _ _ => false
  | .opc => false
  | .f1 => false
  | .f2 => false
  | .f3 => false
  | .f4 => false
  | .f5 => false
  | .genav _ randp => !randp

/-- What a completed command does to the random source and the count of draws (R103, R188): exactly one draw when the
command asks for one and a KeyMaterial is held, none otherwise. -/
def DrawEffect (i : Instr) (s : State) (src : RandomSource) (n : Nat) : Prop :=
  if drawsRand i = true ∧ s.block.km.valid = true then
    (∃ d, sourceAnswer s.draws s.source = some (d, src)) ∧ n = s.draws + 1
  else src = s.source ∧ n = s.draws

end Sys2Proof.Machine
end

