-- ==== Sys2Proof/Certificates/Slice0/Obligations.lean ====
section
/-! DEFINITION. The statements about the machine, in the order: steps and transactions, encoding, commands, functions,
whole-machine rules, host driver. `paramsOf s.inst` is the pair (`E`, `H`) plugged into machine `s`; for the open
parameters nothing is known of it, so each statement holds whatever they are. -/

open Sys2Proof Sys2Proof.Machine

/-! ### Steps and transactions -/

/-- When the byte the host writes to `CMD` decodes to a command, the step is `exec` of that command, on the state without
the transaction (R52, R95, R96). Nothing else surrounds it: there is no pc to move. -/
def Obligations.StepRunsDecodedCommand : Prop :=
  ∀ (s : State) (c : Byte) (rest : List Transaction) (i : Instr),
    s.script = .write 0x00 c :: rest → decode c = .instr i → step s = exec i { s with script := rest }

/-- With no transaction pending the machine holds its state (R191; the empty script is the model's, log entry 5). -/
def Obligations.IdleStepHoldsState : Prop :=
  ∀ s : State, s.script = [] → step s = .next s

/-- A step is the next pending transaction, on the state without it (R6, R59); the pending list is the model's, log entry 5.
A read gives the host the byte of `memRead` and changes nothing else; the list it is given in is log entry 6. -/
def Obligations.StepIssuesNextTransaction : Prop :=
  (∀ (s : State) (tx : Transaction) (rest : List Transaction), s.script = tx :: rest →
    step s = transact tx { s with script := rest }) ∧
  ∀ (s : State) (a : Byte),
    transact (.read a) s = .next { s with returned := s.returned ++ [memRead s.block a] }

/-- R37 and R200: after reset every piece of the block's state has the value of R37's table, so that every address reads
zero. That the reset input leaves `script`, `returned`, `source`, `draws` and `inst` as they were is the model's reading,
log entry 7 (DEDUCED): R201 says that `E`, `H` and the random source are not reset, and is silent on the host. -/
def Obligations.ResetRestoresEveryValue : Prop :=
  State.reset.block =
    { staging := { k := ⟨zeros 16, 0⟩, op := ⟨zeros 16, 0⟩, rand := ⟨zeros 16, 0⟩, sqn := ⟨zeros 6, 0⟩ },
      km := ⟨zeros 16, zeros 16, false⟩, memo := ⟨zeros 16, false⟩, status := ⟨false, false, 0, 0⟩,
      results := ⟨0, zeros 16, zeros 8, zeros 16, zeros 16, zeros 16, zeros 8, zeros 6, zeros 16⟩ } ∧
  (∀ s : State, transact .reset s = .next { s with block := State.reset.block }) ∧
  ∀ a : Byte, memRead State.reset.block a = 0x00

/-- R51, line by line, and that a read returns that byte and changes nothing of the block. -/
def Obligations.ReadTableReturns : Prop :=
  (∀ (s : State) (a : Byte), transact (.read a) s = .next (hostRead a s).2 ∧
    (hostRead a s).1 = memRead s.block a ∧ (hostRead a s).2.block = s.block) ∧
  ∀ b : Block,
    memRead b 0x00 = 0x00 ∧
    memRead b 0x01 = 0#4 ++ BitVec.ofBool b.status.err ++ BitVec.ofBool b.status.ok ++ BitVec.ofBool b.memo.valid ++
      BitVec.ofBool b.km.valid ∧
    memRead b 0x02 = b.status.errcode ∧
    memRead b 0x03 = b.status.errfield ∧
    memRead b 0x04 = b.results.rvalid ∧
    (∀ a : Byte, 0x08 ≤ a.toNat ∧ a.toNat ≤ 0x0B → memRead b a = 0x00) ∧
    memRead b 0x0C = b.staging.k.cnt ∧
    memRead b 0x0D = b.staging.op.cnt ∧
    memRead b 0x0E = b.staging.rand.cnt ∧
    memRead b 0x0F = b.staging.sqn.cnt ∧
    memRead b 0x10 = 0x00 ∧
    memRead b 0x11 = 0x00 ∧
    (∀ i : Fin 16, memRead b (BitVec.ofNat 8 (0x20 + i.val)) = b.results.randOut[i]) ∧
    (∀ i : Fin 8, memRead b (BitVec.ofNat 8 (0x30 + i.val)) = b.results.xres[i]) ∧
    (∀ i : Fin 16, memRead b (BitVec.ofNat 8 (0x40 + i.val)) = b.results.autn[i]) ∧
    (∀ i : Fin 16, memRead b (BitVec.ofNat 8 (0x50 + i.val)) = b.results.ck[i]) ∧
    (∀ i : Fin 16, memRead b (BitVec.ofNat 8 (0x60 + i.val)) = b.results.ik[i]) ∧
    (∀ i : Fin 8, memRead b (BitVec.ofNat 8 (0x70 + i.val)) = b.results.maca[i]) ∧
    (∀ i : Fin 6, memRead b (BitVec.ofNat 8 (0x78 + i.val)) = b.results.ak[i]) ∧
    (∀ i : Fin 16, memRead b (BitVec.ofNat 8 (0x80 + i.val)) = b.results.opcOut[i]) ∧
    ∀ a : Byte, ((0x05 ≤ a.toNat ∧ a.toNat ≤ 0x07) ∨ (0x12 ≤ a.toNat ∧ a.toNat ≤ 0x1F) ∨
        (0x38 ≤ a.toNat ∧ a.toNat ≤ 0x3F) ∨ (0x7E ≤ a.toNat ∧ a.toNat ≤ 0x7F) ∨ 0x90 ≤ a.toNat) →
      memRead b a = 0x00

/-- R52, line by line: `CMD` executes, the four push ports push (the two statements of `Push` in R27, on one operand's
buffer and counter), any other write has no effect. -/
def Obligations.WriteTableActs : Prop :=
  ∀ (s : State) (a v : Byte),
    (a = 0x00 → transact (.write a v) s = execCommand v s) ∧
    (a = 0x08 → transact (.write a v) s = .next { s with
      block := { s.block with staging := { s.block.staging with k := pushByte s.block.staging.k v } } }) ∧
    (a = 0x09 → transact (.write a v) s = .next { s with
      block := { s.block with staging := { s.block.staging with op := pushByte s.block.staging.op v } } }) ∧
    (a = 0x0A → transact (.write a v) s = .next { s with
      block := { s.block with staging := { s.block.staging with rand := pushByte s.block.staging.rand v } } }) ∧
    (a = 0x0B → transact (.write a v) s = .next { s with
      block := { s.block with staging := { s.block.staging with sqn := pushByte s.block.staging.sqn v } } }) ∧
    (a ≠ 0x00 ∧ a ≠ 0x08 ∧ a ≠ 0x09 ∧ a ≠ 0x0A ∧ a ≠ 0x0B → transact (.write a v) s = .next s)

/-- The closed form of R27 for a sequence of pushes from a cleared buffer: the counter is `min(n, 255)` and never wraps;
byte `i` is the (i+1)-th pushed byte, zero where none was pushed; excess bytes are dropped. -/
def Obligations.PushesFillStaging : Prop :=
  ∀ (cap : Nat) (vs : ByteString), cap = 16 ∨ cap = 6 →
    (vs.foldl pushByte (clearedOperand cap)).cnt.toNat = min vs.length 255 ∧
    ∀ i : Fin cap, (vs.foldl pushByte (clearedOperand cap)).buf[i] = vs.getD i.val 0x00

/-- The macro `PUSH X, <bytes>` (R82) run on the machine pushes its bytes in order onto that operand, and onto no other. -/
def Obligations.PushMacroStagesOperand : Prop :=
  ∀ (s : State) (vs : ByteString),
    runScript (pushScript .k vs) s = .next { s with
      block := { s.block with staging := { s.block.staging with k := vs.foldl pushByte s.block.staging.k } } } ∧
    runScript (pushScript .op vs) s = .next { s with
      block := { s.block with staging := { s.block.staging with op := vs.foldl pushByte s.block.staging.op } } } ∧
    runScript (pushScript .rand vs) s = .next { s with
      block := { s.block with staging := { s.block.staging with rand := vs.foldl pushByte s.block.staging.rand } } } ∧
    runScript (pushScript .sqn vs) s = .next { s with
      block := { s.block with staging := { s.block.staging with sqn := vs.foldl pushByte s.block.staging.sqn } } }

/-! ### Encoding -/

/-- Every command decodes from its own byte, and a byte that decodes to a command is that command's byte (R70 to R73,
R81). -/
def Obligations.EncodeDecodeAgree : Prop :=
  (∀ i : Instr, decode (encode i) = .instr i) ∧ ∀ (c : Byte) (i : Instr), decode c = .instr i → encode i = c

/-- R76 and R77: which bytes are illegal, how many, and what writing one does. The rules know one kind of illegal byte;
the two reasons `reservedOpcode` and `reservedFlags` that the decoder answers are the model's names, log entry 9 (DESIGN
CHOICE), and the effect, the last clause, is the same for both. -/
def Obligations.IllegalBytesFail : Prop :=
  (∀ c : Byte, 9 ≤ (c.extractLsb' 0 4).toNat → decode c = .illegal .reservedOpcode) ∧
  (∀ c : Byte, c.extractLsb' 0 4 ∈ [0x0#4, 0x2#4, 0x3#4, 0x4#4, 0x5#4, 0x6#4, 0x7#4] → c.extractLsb' 4 4 ≠ 0#4 →
    decode c = .illegal .reservedFlags) ∧
  (∀ c : Byte, c.extractLsb' 0 4 ∈ [0x1#4, 0x8#4] → c.extractLsb' 6 2 ≠ 0#2 → decode c = .illegal .reservedFlags) ∧
  (∀ c : Byte, (∃ i, decode c = .instr i) ↔
    c ∈ [0x00#8, 0x01#8, 0x11#8, 0x21#8, 0x31#8, 0x02#8, 0x03#8, 0x04#8, 0x05#8, 0x06#8, 0x07#8, 0x08#8, 0x18#8,
      0x28#8, 0x38#8]) ∧
  (List.range 256).countP (fun n => 9 ≤ ((BitVec.ofNat 8 n).extractLsb' 0 4).toNat) = 112 ∧
  (List.range 256).countP (fun n => (decode (BitVec.ofNat 8 n)).instr?.isNone) = 241 ∧
  ∀ (s : State) (c : Byte), (∀ i, decode c ≠ .instr i) →
    transact (.write 0x00 c) s = .next { s with
      block :=
        { staging := clearedStaging, km := s.block.km, memo := s.block.memo, status := ⟨false, true, 0x05, 0x05⟩,
          results := clearedResults } }

/-- The decoder and the match and mask table of R78 agree: a byte meets a command's row exactly when it decodes to that
command (with some flags), and no byte meets two rows. -/
def Obligations.MatchMaskTableAgrees : Prop :=
  (∀ (i : Instr) (c : Byte), (opcodeRow i).covers c = true ↔ ∃ j, decode c = .instr j ∧ opcodeRow j = opcodeRow i) ∧
  opcodeTable.Pairwise fun r q => ∀ c : Byte, ¬ (r.covers c = true ∧ q.covers c = true)

/-- The field checks of R71, R72 and R76 accept exactly the bytes that decode to a command. -/
def Obligations.WellFormedWordsDecode : Prop :=
  ∀ c : Byte, (commandFields c).wellFormed = true ↔ ∃ i, decode c = .instr i

/-- A few command bytes written out from the encodings of R78 and R81, bit by bit. -/
def Obligations.WrittenOutCommandBytes : Prop :=
  decode 0b00000000#8 = .instr .clr ∧ decode 0b00110001#8 = .instr (.loadkey true true) ∧
  decode 0b00010001#8 = .instr (.loadkey true false) ∧ decode 0b00000010#8 = .instr .opc ∧
  decode 0b00000011#8 = .instr .f1 ∧ decode 0b00000101#8 = .instr .f3 ∧
  decode 0b00101000#8 = .instr (.genav false true)

/-! ### Commands: results, failures, frames

Each equation gives the whole next state, so it is the frame too: what it does not name is unchanged. -/

/-- R101: `CLR` clears results, record and staging, sets `OK`, and keeps the KeyMaterial and the memo; it cannot fail. On
a freshly reset block it changes only `OK`. -/
def Obligations.ClrClears : Prop :=
  (∀ s : State, exec .clr s = .next { s with
    block := { staging := clearedStaging, km := s.block.km, memo := s.block.memo, status := ⟨true, false, 0x00, 0x00⟩,
               results := clearedResults } }) ∧
  encode .clr = 0x00 ∧
  exec .clr State.reset =
    .next { State.reset with block := { Block.reset with status := { Block.reset.status with ok := true } } }

/-- R106: `LOADKEY` constructs the KeyMaterial from 16 staged bytes each of OP and K, with an empty memo; otherwise the
first failing check, in the order of R106, is reported and slot and memo are kept. -/
def Obligations.LoadkeyConstructsOrFails : Prop :=
  ∀ s : State,
    (s.block.staging.op.cnt = 16 → s.block.staging.k.cnt = 16 →
      exec (.loadkey true true) s = .next { s with
        block := blockAfterSuccess { k := s.block.staging.k.buf, op := s.block.staging.op.buf, valid := true }
          { opc := zeros 16, valid := false } clearedResults }) ∧
    (∀ kp, exec (.loadkey false kp) s = .next { s with block := blockAfterFailure .missingParameter .op s.block }) ∧
    exec (.loadkey true false) s = .next { s with block := blockAfterFailure .missingParameter .key s.block } ∧
    (s.block.staging.op.cnt ≠ 16 →
      exec (.loadkey true true) s = .next { s with block := blockAfterFailure .invalidKeyLength .op s.block }) ∧
    (s.block.staging.op.cnt = 16 → s.block.staging.k.cnt ≠ 16 →
      exec (.loadkey true true) s = .next { s with block := blockAfterFailure .invalidKeyLength .key s.block }) ∧
    encode (.loadkey false false) = 0x01 ∧ encode (.loadkey true false) = 0x11 ∧
    encode (.loadkey false true) = 0x21 ∧ encode (.loadkey true true) = 0x31

/-- `OPC` (R121): with a KeyMaterial, `OPC_OUT` is `E(KM_K, KM_OP) xor KM_OP` and the memo holds it. The premise on the
memo is invariant (b) of R36, stated to hold in `InvariantsKept`. -/
def Obligations.OpcExposesOpc : Prop :=
  ∀ s : State,
    (s.block.km.valid = true → MemoCoherent (paramsOf s.inst) s.block →
      exec .opc s = .next { s with
        block := blockAfterSuccess s.block.km
          { opc := xorBytes ((paramsOf s.inst).e s.block.km.k s.block.km.op) s.block.km.op, valid := true }
          { clearedResults with
            rvalid := 0x80
            opcOut := xorBytes ((paramsOf s.inst).e s.block.km.k s.block.km.op) s.block.km.op } }) ∧
    (s.block.km.valid = false →
      exec .opc s = .next { s with block := blockAfterFailure .noKeyMaterial .km s.block }) ∧
    encode .opc = 0x02

/-- `F1` (R131): MAC-A of the staged RAND and SQN and the constant AMF, under OPc; its failures in order. -/
def Obligations.F1WritesMacA : Prop :=
  ∀ s : State,
    (s.block.km.valid = true → MemoCoherent (paramsOf s.inst) s.block → s.block.staging.rand.cnt = 16 →
      s.block.staging.sqn.cnt = 6 →
      exec .f1 s = .next { s with
        block := blockAfterSuccess s.block.km
          { opc := deriveOpc (paramsOf s.inst) s.block.km.k s.block.km.op, valid := true }
          { clearedResults with
            rvalid := 0x20
            maca := f1 (paramsOf s.inst) (deriveOpc (paramsOf s.inst) s.block.km.k s.block.km.op)
              s.block.staging.rand.buf s.block.staging.sqn.buf amfConst } }) ∧
    (s.block.km.valid = false → exec .f1 s = .next { s with block := blockAfterFailure .noKeyMaterial .km s.block }) ∧
    (s.block.km.valid = true → s.block.staging.rand.cnt ≠ 16 →
      exec .f1 s = .next { s with block := blockAfterFailure .invalidInputLength .rand s.block }) ∧
    (s.block.km.valid = true → s.block.staging.rand.cnt = 16 → s.block.staging.sqn.cnt ≠ 6 →
      exec .f1 s = .next { s with block := blockAfterFailure .invalidInputLength .sqn s.block }) ∧
    encode .f1 = 0x03

/-- `F2` (R145): `XRES` is RES of the staged RAND; its failures in order. -/
def Obligations.F2WritesXres : Prop :=
  ∀ s : State,
    (s.block.km.valid = true → MemoCoherent (paramsOf s.inst) s.block → s.block.staging.rand.cnt = 16 →
      exec .f2 s = .next { s with
        block := blockAfterSuccess s.block.km
          { opc := deriveOpc (paramsOf s.inst) s.block.km.k s.block.km.op, valid := true }
          { clearedResults with
            rvalid := 0x02
            xres := f2 (paramsOf s.inst) (deriveOpc (paramsOf s.inst) s.block.km.k s.block.km.op)
              s.block.staging.rand.buf } }) ∧
    (s.block.km.valid = false → exec .f2 s = .next { s with block := blockAfterFailure .noKeyMaterial .km s.block }) ∧
    (s.block.km.valid = true → s.block.staging.rand.cnt ≠ 16 →
      exec .f2 s = .next { s with block := blockAfterFailure .invalidInputLength .rand s.block }) ∧
    encode .f2 = 0x04

/-- `F3` (R146): `CK` of the staged RAND; its failures in order. -/
def Obligations.F3WritesCk : Prop :=
  ∀ s : State,
    (s.block.km.valid = true → MemoCoherent (paramsOf s.inst) s.block → s.block.staging.rand.cnt = 16 →
      exec .f3 s = .next { s with
        block := blockAfterSuccess s.block.km
          { opc := deriveOpc (paramsOf s.inst) s.block.km.k s.block.km.op, valid := true }
          { clearedResults with
            rvalid := 0x08
            ck := f3 (paramsOf s.inst) (deriveOpc (paramsOf s.inst) s.block.km.k s.block.km.op)
              s.block.staging.rand.buf } }) ∧
    (s.block.km.valid = false → exec .f3 s = .next { s with block := blockAfterFailure .noKeyMaterial .km s.block }) ∧
    (s.block.km.valid = true → s.block.staging.rand.cnt ≠ 16 →
      exec .f3 s = .next { s with block := blockAfterFailure .invalidInputLength .rand s.block }) ∧
    encode .f3 = 0x05

/-- `F4` (R147): `IK` of the staged RAND; its failures in order. -/
def Obligations.F4WritesIk : Prop :=
  ∀ s : State,
    (s.block.km.valid = true → MemoCoherent (paramsOf s.inst) s.block → s.block.staging.rand.cnt = 16 →
      exec .f4 s = .next { s with
        block := blockAfterSuccess s.block.km
          { opc := deriveOpc (paramsOf s.inst) s.block.km.k s.block.km.op, valid := true }
          { clearedResults with
            rvalid := 0x10
            ik := f4 (paramsOf s.inst) (deriveOpc (paramsOf s.inst) s.block.km.k s.block.km.op)
              s.block.staging.rand.buf } }) ∧
    (s.block.km.valid = false → exec .f4 s = .next { s with block := blockAfterFailure .noKeyMaterial .km s.block }) ∧
    (s.block.km.valid = true → s.block.staging.rand.cnt ≠ 16 →
      exec .f4 s = .next { s with block := blockAfterFailure .invalidInputLength .rand s.block }) ∧
    encode .f4 = 0x06

/-- `F5` (R148): `AK` of the staged RAND; its failures in order. -/
def Obligations.F5WritesAk : Prop :=
  ∀ s : State,
    (s.block.km.valid = true → MemoCoherent (paramsOf s.inst) s.block → s.block.staging.rand.cnt = 16 →
      exec .f5 s = .next { s with
        block := blockAfterSuccess s.block.km
          { opc := deriveOpc (paramsOf s.inst) s.block.km.k s.block.km.op, valid := true }
          { clearedResults with
            rvalid := 0x40
            ak := f5 (paramsOf s.inst) (deriveOpc (paramsOf s.inst) s.block.km.k s.block.km.op)
              s.block.staging.rand.buf } }) ∧
    (s.block.km.valid = false → exec .f5 s = .next { s with block := blockAfterFailure .noKeyMaterial .km s.block }) ∧
    (s.block.km.valid = true → s.block.staging.rand.cnt ≠ 16 →
      exec .f5 s = .next { s with block := blockAfterFailure .invalidInputLength .rand s.block }) ∧
    encode .f5 = 0x07

/-- `GENAV` with RAND supplied (R156, R157, R162): the five registers of the vector, for SQN supplied or defaulted to
`0^6`; no draw is made. -/
def Obligations.GenavWithSuppliedRand : Prop :=
  ∀ (s : State) (sqnp : Bool), s.block.km.valid = true → MemoCoherent (paramsOf s.inst) s.block →
    s.block.staging.rand.cnt = 16 → (sqnp = true → s.block.staging.sqn.cnt = 6) →
    let P := paramsOf s.inst
    let opc := deriveOpc P s.block.km.k s.block.km.op
    let rand := s.block.staging.rand.buf
    let sqn := if sqnp then s.block.staging.sqn.buf else zeros 6
    exec (.genav sqnp true) s = .next { s with
      block := blockAfterSuccess s.block.km { opc := opc, valid := true }
        { clearedResults with
          rvalid := 0x1F
          randOut := rand
          xres := f2 P opc rand
          autn := assembleAutn sqn (f5 P opc rand) amfConst (f1 P opc rand sqn amfConst)
          ck := f3 P opc rand
          ik := f4 P opc rand } }

/-- `GENAV` with RAND drawn (R156, R162, R188): as above with the source's answer `d` as RAND, whatever is staged for RAND,
and exactly one draw. For a free source `d` is `Config.rngAnswer s.draws`, which is unconstrained. -/
def Obligations.GenavWithDrawnRand : Prop :=
  ∀ (s : State) (sqnp : Bool) (d : Bytes 16) (src : RandomSource), s.block.km.valid = true →
    MemoCoherent (paramsOf s.inst) s.block → sourceAnswer s.draws s.source = some (d, src) →
    (sqnp = true → s.block.staging.sqn.cnt = 6) →
    let P := paramsOf s.inst
    let opc := deriveOpc P s.block.km.k s.block.km.op
    let sqn := if sqnp then s.block.staging.sqn.buf else zeros 6
    exec (.genav sqnp false) s = .next { s with
      block := blockAfterSuccess s.block.km { opc := opc, valid := true }
        { clearedResults with
          rvalid := 0x1F
          randOut := d
          xres := f2 P opc d
          autn := assembleAutn sqn (f5 P opc d) amfConst (f1 P opc d sqn amfConst)
          ck := f3 P opc d
          ik := f4 P opc d }
      source := src
      draws := s.draws + 1 }

/-- The failures of `GENAV` in the order of R162 and R182, and whether a draw was made first: none when no KeyMaterial is
held; one, discarded, when a drawn RAND is followed by an SQN of the wrong length. -/
def Obligations.GenavFailsInOrder : Prop :=
  ∀ s : State,
    (∀ sqnp randp, s.block.km.valid = false →
      exec (.genav sqnp randp) s = .next { s with block := blockAfterFailure .noKeyMaterial .km s.block }) ∧
    (∀ sqnp, s.block.km.valid = true → s.block.staging.rand.cnt ≠ 16 →
      exec (.genav sqnp true) s = .next { s with block := blockAfterFailure .invalidInputLength .rand s.block }) ∧
    (s.block.km.valid = true → s.block.staging.rand.cnt = 16 → s.block.staging.sqn.cnt ≠ 6 →
      exec (.genav true true) s = .next { s with block := blockAfterFailure .invalidInputLength .sqn s.block }) ∧
    ∀ d src, s.block.km.valid = true → sourceAnswer s.draws s.source = some (d, src) → s.block.staging.sqn.cnt ≠ 6 →
      exec (.genav true false) s = .next { s with
        block := blockAfterFailure .invalidInputLength .sqn s.block, source := src, draws := s.draws + 1 }

/-- `GENAV` waits for a source that does not answer, and with it the machine is stuck (R188, U3): this is the only way any
command can fail to complete (R96). -/
def Obligations.OnlyASilentSourceStops : Prop :=
  (∀ (s : State) (sqnp : Bool), s.block.km.valid = true → sourceAnswer s.draws s.source = none →
    exec (.genav sqnp false) s = .fault .randomSourceSilent) ∧
  (∀ (i : Instr) (s : State) (r : Fault), exec i s = .fault r →
    r = .randomSourceSilent ∧ (∃ sqnp, i = .genav sqnp false) ∧ s.block.km.valid = true ∧
      sourceAnswer s.draws s.source = none) ∧
  ∀ (i : Instr) (s : State) (r : Refusal), exec i s ≠ .refused r

/-! ### Functions -/

/-- R117: `OPc[i] = E(K, OP)[i] XOR OP[i]`, for any `E`. -/
def Obligations.OpcIsCoreOutputXorOp : Prop :=
  ∀ (P : Params) (k op : Bytes 16) (i : Fin 16), (deriveOpc P k op)[i] = (P.e k op)[i] ^^^ op[i]

/-- R130 and R140 to R143: each function's message, its length, and that the output is the leading bytes of the digest,
for any `H` and any digest length of at least 16. -/
def Obligations.FunctionsTruncateKeyedHash : Prop :=
  ∀ (P : Params) (opc rand : Bytes 16) (sqn : Bytes 6) (amf : Bytes 2),
    have hd := P.dlen_ge
    (∀ i : Fin 8, (f1 P opc rand sqn amf)[i] =
      (P.h opc (rand.toList ++ sqn.toList ++ amf.toList))[i.val]'(by omega)) ∧
    (∀ i : Fin 8, (f2 P opc rand)[i] = (P.h opc rand.toList)[i.val]'(by omega)) ∧
    (∀ i : Fin 16, (f3 P opc rand)[i] = (P.h opc (rand.toList ++ [0x01]))[i.val]'(by omega)) ∧
    (∀ i : Fin 16, (f4 P opc rand)[i] = (P.h opc (rand.toList ++ [0x02]))[i.val]'(by omega)) ∧
    (∀ i : Fin 6, (f5 P opc rand)[i] = (P.h opc (rand.toList ++ [0x03]))[i.val]'(by omega)) ∧
    (f1Message rand sqn amf).length = 24 ∧ (f2Message rand).length = 16 ∧
    (∀ tag, (taggedMessage rand tag).length = 17) ∧ amfConst.toList = [0x00, 0x00]

/-- R144: for one RAND the five messages are pairwise different; and (R168) a different RAND makes every message
different. No claim is made about the outputs, which depend on `H`. -/
def Obligations.MessagesAreSeparated : Prop :=
  (∀ (rand : Bytes 16) (sqn : Bytes 6) (amf : Bytes 2),
    [f1Message rand sqn amf, f2Message rand, taggedMessage rand 0x01, taggedMessage rand 0x02,
      taggedMessage rand 0x03].Pairwise (· ≠ ·)) ∧
  ∀ (r r' : Bytes 16) (sqn sqn' : Bytes 6) (amf amf' : Bytes 2) (tag : Byte), r ≠ r' →
    f1Message r sqn amf ≠ f1Message r' sqn' amf' ∧ f2Message r ≠ f2Message r' ∧
    taggedMessage r tag ≠ taggedMessage r' tag

/-- R159 and R160: the layout of AUTN, byte by byte, and that concealing twice with the same AK gives SQN back. -/
def Obligations.AutnLayout : Prop :=
  ∀ (sqn ak : Bytes 6) (amf : Bytes 2) (mac : Bytes 8),
    (∀ i : Fin 6, (assembleAutn sqn ak amf mac)[i.val] = sqn[i] ^^^ ak[i]) ∧
    (∀ i : Fin 2, (assembleAutn sqn ak amf mac)[6 + i.val] = amf[i]) ∧
    (∀ i : Fin 8, (assembleAutn sqn ak amf mac)[8 + i.val] = mac[i]) ∧
    concealSqn (concealSqn sqn ak) ak = sqn

/-! ### Whole-machine rules -/

/-- R165: after a successful `GENAV`, what the host reads from the registers verifies against the derivation set, and
XOR-ing AK onto the first six bytes of AUTN recovers the SQN used. -/
def Obligations.AuthVectorVerifies : Prop :=
  ∀ (s t : State) (sqnp randp : Bool), MemoCoherent (paramsOf s.inst) s.block →
    exec (.genav sqnp randp) s = .next t → t.block.status.ok = true →
    let P := paramsOf s.inst
    let opc := deriveOpc P s.block.km.k s.block.km.op
    let r := t.block.results.randOut
    let sqn := if sqnp then s.block.staging.sqn.buf else zeros 6
    (∀ i : Fin 6, memRead t.block (BitVec.ofNat 8 (0x40 + i.val)) = sqn[i] ^^^ (f5 P opc r)[i]) ∧
    (∀ i : Fin 6, memRead t.block (BitVec.ofNat 8 (0x40 + i.val)) ^^^ (f5 P opc r)[i] = sqn[i]) ∧
    memRead t.block 0x46 = 0x00 ∧ memRead t.block 0x47 = 0x00 ∧
    (∀ i : Fin 8, memRead t.block (BitVec.ofNat 8 (0x48 + i.val)) = (f1 P opc r sqn amfConst)[i]) ∧
    t.block.results.xres = f2 P opc r ∧ t.block.results.ck = f3 P opc r ∧ t.block.results.ik = f4 P opc r

/-- R164: two successful `GENAV`s with the same functions, KeyMaterial, RAND and SQN leave identical results, whatever the
memos held, whether RAND was staged or drawn, and whatever else differs. -/
def Obligations.GenavIsDeterministic : Prop :=
  ∀ (s s' t t' : State) (sqnp sqnp' randp randp' : Bool), s.inst = s'.inst → s.block.km = s'.block.km →
    MemoCoherent (paramsOf s.inst) s.block → MemoCoherent (paramsOf s'.inst) s'.block →
    exec (.genav sqnp randp) s = .next t → exec (.genav sqnp' randp') s' = .next t' →
    t.block.status.ok = true → t'.block.status.ok = true →
    t.block.results.randOut = t'.block.results.randOut →
    (if sqnp then s.block.staging.sqn.buf else zeros 6) = (if sqnp' then s'.block.staging.sqn.buf else zeros 6) →
    t.block.results = t'.block.results

/-- R120: in a state with a coherent memo, a command run with the memo emptied first ends the same way, with the same
results, status, KeyMaterial and staging: the memo shows in no value. -/
def Obligations.MemoIsUnobservable : Prop :=
  ∀ (i : Instr) (s : State), MemoCoherent (paramsOf s.inst) s.block →
    let s₀ := { s with block := { s.block with memo := { opc := zeros 16, valid := false } } }
    (∀ r, exec i s = .fault r ↔ exec i s₀ = .fault r) ∧
    ∀ t, exec i s = .next t → ∃ u, exec i s₀ = .next u ∧ u.block.results = t.block.results ∧
      u.block.status = t.block.status ∧ u.block.km = t.block.km ∧ u.block.staging = t.block.staging ∧
      u.source = t.source ∧ u.draws = t.draws

/-- R30 and R119 in every state, a valid memo being taken as it stands: a successful command that needs OPc keeps a filled
memo and fills an empty one from the slot. -/
def Obligations.KeyCommandsFillMemo : Prop :=
  ∀ (i : Instr) (s t : State), needsKeyMaterial i = true → exec i s = .next t → t.block.status.ok = true →
    (s.block.memo.valid = true → t.block.memo = s.block.memo) ∧
    (s.block.memo.valid = false →
      t.block.memo = { opc := deriveOpc (paramsOf s.inst) s.block.km.k s.block.km.op, valid := true })

/-- R180: without a KeyMaterial, `OPC`, `F1` to `F5` and `GENAV` fail with `NoKeyMaterial` before any other check, and no
draw is made. -/
def Obligations.KeyCommandsNeedKeyMaterial : Prop :=
  ∀ (i : Instr) (s : State), needsKeyMaterial i = true → s.block.km.valid = false →
    exec i s = .next { s with block := blockAfterFailure .noKeyMaterial .km s.block }

/-- R181 for every command byte, legal or illegal: a failure writes the record, zeroes results and staging, and changes
nothing else of the block. -/
def Obligations.FailureChangesOnlyRecord : Prop :=
  ∀ (c : Byte) (s t : State), execCommand c s = .next t → t.block.status.err = true →
    (∃ c f, t.block.status = ⟨false, true, errCode c, errField f⟩) ∧
    t.block.results = ⟨0x00, zeros 16, zeros 8, zeros 16, zeros 16, zeros 16, zeros 8, zeros 6, zeros 16⟩ ∧
    t.block.staging = ⟨⟨zeros 16, 0⟩, ⟨zeros 16, 0⟩, ⟨zeros 16, 0⟩, ⟨zeros 6, 0⟩⟩ ∧
    t.block.km = s.block.km ∧ t.block.memo = s.block.memo

/-- R17 and R24 for every command byte: a completed command ends in exactly one of success and failure, and only a failure
has a code. -/
def Obligations.CommandsSucceedOrFail : Prop :=
  ∀ (c : Byte) (s t : State), execCommand c s = .next t →
    t.block.status.ok = !t.block.status.err ∧
    (t.block.status.err = true ↔ t.block.status.errcode ≠ 0x00) ∧
    (t.block.status.errcode, t.block.status.errfield) ∈ errorPairs

/-- R26: the `RVALID` value each command leaves on success, and zero on failure. -/
def Obligations.RvalidNamesResults : Prop :=
  ∀ (i : Instr) (s t : State), exec i s = .next t →
    t.block.results.rvalid =
      if t.block.status.err then 0x00
      else match i with
        | .clr => 0x00
        | .loadkey _ _ => 0x00
        | .opc => 0x80
        | .f1 => 0x20
        | .f2 => 0x02
        | .f3 => 0x08
        | .f4 => 0x10
        | .f5 => 0x40
        | .genav _ _ => 0x1F

/-- R100: after any command byte, legal or illegal, and either outcome, all staging is zero. -/
def Obligations.EveryCommandConsumesStaging : Prop :=
  ∀ (s t : State) (c : Byte), transact (.write 0x00 c) s = .next t →
    t.block.staging.k.buf = zeros 16 ∧ t.block.staging.op.buf = zeros 16 ∧ t.block.staging.rand.buf = zeros 16 ∧
    t.block.staging.sqn.buf = zeros 6 ∧ t.block.staging.k.cnt = 0 ∧ t.block.staging.op.cnt = 0 ∧
    t.block.staging.rand.cnt = 0 ∧ t.block.staging.sqn.cnt = 0

/-- Invariants (a) to (f) of R36 are kept by every step, from every state that meets them: for a write to `CMD`, by every
command and every illegal byte; by every push, read and reset. -/
def Obligations.InvariantsKept : Prop :=
  ∀ s t : State, BlockInv (paramsOf s.inst) s.block → step s = .next t → BlockInv (paramsOf t.inst) t.block

/-- The invariants of R36 hold at reset, for any parameters, and so do the value sets of R24, R26 and R175. -/
def Obligations.InvariantsAtReset : Prop :=
  (∀ P : Params, BlockInv P State.reset.block) ∧ LegalValues State.reset.block

/-- The only values of `RVALID` (R26), the only pairs of `ERRCODE` and `ERRFIELD` (R175) and the reserved bits of `STATUS`
(R24) are kept by every step. -/
def Obligations.LegalValuesKept : Prop :=
  ∀ s t : State, LegalValues s.block → step s = .next t → LegalValues t.block

/-- R36 (g), R107 and R29: the KeyMaterial changes only by the reset input or by a successful `LOADKEY`, and a held
KeyMaterial is discarded only by reset. -/
def Obligations.KeyMaterialIsImmutable : Prop :=
  ∀ (tx : Transaction) (s t : State), transact tx s = .next t →
    (t.block.km ≠ s.block.km → tx = .reset ∨
      (tx = .write 0x00 0x31 ∧ t.block.status.ok = true ∧
        t.block.km = { k := s.block.staging.k.buf, op := s.block.staging.op.buf, valid := true })) ∧
    (s.block.km.valid = true → t.block.km.valid = false → tx = .reset)

/-- R30: the memo is cleared by reset and by a successful `LOADKEY`, filled by a successful command that needs OPc, and
changed by nothing else. -/
def Obligations.MemoChangesOnlyAsStated : Prop :=
  ∀ (tx : Transaction) (s t : State), transact tx s = .next t → t.block.memo ≠ s.block.memo →
    (tx = .reset ∧ t.block.memo = { opc := zeros 16, valid := false }) ∨
    (tx = .write 0x00 0x31 ∧ t.block.status.ok = true ∧ t.block.memo = { opc := zeros 16, valid := false }) ∨
    (∃ i, tx = .write 0x00 (encode i) ∧ needsKeyMaterial i = true ∧ t.block.status.ok = true ∧
      s.block.memo.valid = false ∧
      t.block.memo = { opc := deriveOpc (paramsOf s.inst) s.block.km.k s.block.km.op, valid := true })

/-- R205, R31 and R33: only a write to `CMD` or the reset input changes a result register, `RVALID`, `OK`, `ERR` or the
error record. -/
def Obligations.ResultsStandUntilCommand : Prop :=
  ∀ (tx : Transaction) (s t : State), transact tx s = .next t → tx ≠ .reset → (∀ c, tx ≠ .write 0x00 c) →
    t.block.results = s.block.results ∧ t.block.status = s.block.status

/-- R38: what the host reads at any address is determined by the counters, `STATUS`, the error record, `RVALID` and the
result registers: staged bytes, the KeyMaterial and the memo reach no read. -/
def Obligations.SecretsHaveNoReadPath : Prop :=
  ∀ b c : Block, SamePublic b c → ∀ a : Byte, memRead b a = memRead c a

/-- R166 and R33: no command reads a result register, `RVALID`, a status flag or the error record. -/
def Obligations.CommandsIgnoreEarlierOutcome : Prop :=
  ∀ (i : Instr) (s : State) (r : Results) (st : CommandStatus),
    exec i { s with block := { s.block with results := r, status := st } } = exec i s

/-- R74: an operand whose presence flag is 0 is not looked at, buffer or counter. -/
def Obligations.AbsentOperandsAreIgnored : Prop :=
  ∀ (s : State) (x : Staging 16) (y : Staging 6) (p : Bool),
    exec (.genav p false) { s with block := { s.block with staging := { s.block.staging with rand := x } } } =
      exec (.genav p false) s ∧
    exec (.genav false p) { s with block := { s.block with staging := { s.block.staging with sqn := y } } } =
      exec (.genav false p) s ∧
    exec (.loadkey false p) { s with block := { s.block with staging := { s.block.staging with op := x } } } =
      exec (.loadkey false p) s ∧
    exec (.loadkey p false) { s with block := { s.block with staging := { s.block.staging with k := x } } } =
      exec (.loadkey p false) s

/-- R103, R188 and R35: a completed command leaves the host's side and the plugged functions as they were, and makes
exactly one draw if it is a `GENAV` with RAND absent and a KeyMaterial held, none otherwise. -/
def Obligations.CommandsTouchOnlyBlockAndDraw : Prop :=
  ∀ (i : Instr) (s t : State), exec i s = .next t →
    t.script = s.script ∧ t.returned = s.returned ∧ t.inst = s.inst ∧ DrawEffect i s t.source t.draws

/-! ### Host driver -/

/-- R88 and R89: decoding the hex form of a byte string gives it back; the form has two characters a byte, each a digit or
an upper-case letter A to F. -/
def Obligations.HexRoundTrip : Prop :=
  ∀ bytes : ByteString, decodeHex (encodeHex bytes) = some bytes ∧ (encodeHex bytes).length = 2 * bytes.length ∧
    ∀ c ∈ encodeHex bytes, c ∈ "0123456789ABCDEF".toList

/-- R86 with R105, R176 and R178: from cleared staging, `LOAD_KEYMATERIAL` answers success exactly when both operands are
present and 16 bytes long, and then the slot holds them; otherwise it answers the first failure and the slot is kept. -/
def Obligations.LoadKeyMaterialAnswers : Prop :=
  ∀ (s : State) (op key : Option ByteString), s.block.staging = clearedStaging →
    ∃ (t : State) (verdict : DriverResult Unit), loadKeyMaterial op key s = .next (verdict, t) ∧
      match op, key with
      | none, _ => verdict = .failure 0x01 0x01 ∧ t.block.km = s.block.km
      | some _, none => verdict = .failure 0x01 0x02 ∧ t.block.km = s.block.km
      | some o, some k =>
        if o.length ≠ 16 then verdict = .failure 0x03 0x01 ∧ t.block.km = s.block.km
        else if k.length ≠ 16 then verdict = .failure 0x03 0x02 ∧ t.block.km = s.block.km
        else verdict = .success () ∧ t.block.km.op.toList = o ∧ t.block.km.k.toList = k ∧ t.block.km.valid = true

/-- R87 with R162 and R163: from cleared staging, a held KeyMaterial and a coherent memo, `GENERATE_AV` on a 6-byte SQN and
a 16-byte RAND returns the vector of those inputs, byte for byte. -/
def Obligations.GenerateAvReturnsVector : Prop :=
  ∀ (s : State) (sqn : Bytes 6) (rand : Bytes 16), s.block.staging = clearedStaging → s.block.km.valid = true →
    MemoCoherent (paramsOf s.inst) s.block →
    let P := paramsOf s.inst
    let opc := deriveOpc P s.block.km.k s.block.km.op
    ∃ t, generateAv (some sqn.toList) (some rand.toList) s = .next (.success
      { rand := rand.toList
        xres := (f2 P opc rand).toList
        autn := (assembleAutn sqn (f5 P opc rand) amfConst (f1 P opc rand sqn amfConst)).toList
        ck := (f3 P opc rand).toList
        ik := (f4 P opc rand).toList }, t)

/-- R90 step 1, R92 and R93: a field that does not decode is reported as `MalformedInput` (code 2) on that field, and the
block is not touched. Which of several bad fields is named is the model's choice (log entry 13), so the fields before it in
the request record are assumed to decode where they are present. The record's text is a free value (log entry 16). -/
def Obligations.MalformedFieldStopsRequest : Prop :=
  ∀ (q : Request) (s : State) (cs : List Char), decodeHex cs = none →
    (q.op = some cs → serveRequest q s =
      .next (.failure 0x02 0x01 { error := true, message := Config.decodeFailureMessage 0x01 cs }, s)) ∧
    ((∀ x, q.op = some x → (decodeHex x).isSome) → q.secretKey = some cs → serveRequest q s =
      .next (.failure 0x02 0x02 { error := true, message := Config.decodeFailureMessage 0x02 cs }, s)) ∧
    ((∀ x, q.op = some x → (decodeHex x).isSome) → (∀ x, q.secretKey = some x → (decodeHex x).isSome) →
      q.sqn = some cs → serveRequest q s =
        .next (.failure 0x02 0x03 { error := true, message := Config.decodeFailureMessage 0x03 cs }, s)) ∧
    ((∀ x, q.op = some x → (decodeHex x).isSome) → (∀ x, q.secretKey = some x → (decodeHex x).isSome) →
      (∀ x, q.sqn = some x → (decodeHex x).isSome) → q.rand = some cs → serveRequest q s =
        .next (.failure 0x02 0x04 { error := true, message := Config.decodeFailureMessage 0x04 cs }, s))

/-- R90 steps 2 and 3 with R92: a request whose present fields decode to `op`, `key`, `sqn` and `rand`, served from cleared
staging, is answered with the code and field of the first failing check (R176, R178, R179, R182) and the failure record
`{ error: true, message }`, whose text, built from code and field, is a free value (log entry 16). -/
def Obligations.RequestFailsWithRecord : Prop :=
  ∀ (q : Request) (s : State) (op key sqn rand : Option ByteString), s.block.staging = clearedStaging →
    q.op.map decodeHex = op.map some → q.secretKey.map decodeHex = key.map some →
    q.sqn.map decodeHex = sqn.map some → q.rand.map decodeHex = rand.map some →
    let answers (code field : Byte) : Prop := ∃ t, serveRequest q s =
      .next (.failure code field { error := true, message := Config.blockFailureMessage code field }, t)
    (op = none → answers 0x01 0x01) ∧
    (op ≠ none → key = none → answers 0x01 0x02) ∧
    ∀ o k, op = some o → key = some k →
      (o.length ≠ 16 → answers 0x03 0x01) ∧
      (o.length = 16 → k.length ≠ 16 → answers 0x03 0x02) ∧
      (o.length = 16 → k.length = 16 →
        (∀ r, rand = some r → r.length ≠ 16 → answers 0x04 0x04) ∧
        ∀ v, sqn = some v → v.length ≠ 6 →
          ((∃ r, rand = some r ∧ r.length = 16) ∨ (rand = none ∧ ∃ a, sourceAnswer s.draws s.source = some a)) →
          answers 0x04 0x03)

/-- R90 and R91: a request whose fields decode to an OP and a K of 16 bytes, an SQN of 6 bytes or none, and a RAND `r` of 16
bytes, or none when the source answers `r`, served from cleared staging, is answered with the success record: the
upper-case hex strings of the vector of those inputs. -/
def Obligations.RequestReturnsVector : Prop :=
  ∀ (q : Request) (s : State) (op k r : Bytes 16) (sqn : Option (Bytes 6)), s.block.staging = clearedStaging →
    q.op.map decodeHex = some (some op.toList) → q.secretKey.map decodeHex = some (some k.toList) →
    q.sqn.map decodeHex = sqn.map (fun v => some v.toList) →
    (q.rand.map decodeHex = some (some r.toList) ∨
      (q.rand = none ∧ ∃ src, sourceAnswer s.draws s.source = some (r, src))) →
    let P := paramsOf s.inst
    let opc := deriveOpc P k op
    let v := sqn.getD (zeros 6)
    ∃ t, serveRequest q s = .next (.success (encodeHex r.toList) (encodeHex (f2 P opc r).toList)
      (encodeHex (assembleAutn v (f5 P opc r) amfConst (f1 P opc r v amfConst)).toList)
      (encodeHex (f3 P opc r).toList) (encodeHex (f4 P opc r).toList), t)

/-- R89, R91, R92 and R93 for every request in every state: it is answered with a success record of strings of 32, 16, 32,
32 and 32 characters, or with a failure record whose `error` is true, of one of the classes that arise for a request, its
text built from the block's code and field or, for `MalformedInput` and only then, from a text that does not decode; or it
waits for the random source (R188), which only a request without `rand` can do. The texts are free values (log entry 16). -/
def Obligations.RequestAnswersOneRecord : Prop :=
  ∀ (q : Request) (s : State),
    match serveRequest q s with
    | .next (.success rand xres autn ck ik, _) =>
      rand.length = 32 ∧ xres.length = 16 ∧ autn.length = 32 ∧ ck.length = 32 ∧ ik.length = 32
    | .next (.failure code field record, _) =>
      record.error = true ∧
      if code = 0x02 then
        field ∈ [0x01#8, 0x02#8, 0x03#8, 0x04#8] ∧
          ∃ text, decodeHex text = none ∧ record.message = Config.decodeFailureMessage field text
      else
        (code, field) ∈ [(0x01#8, 0x01#8), (0x01#8, 0x02#8), (0x03#8, 0x01#8), (0x03#8, 0x02#8), (0x04#8, 0x03#8),
          (0x04#8, 0x04#8)] ∧ record.message = Config.blockFailureMessage code field
    | .fault r => r = .randomSourceSilent ∧ q.rand = none
    | .refused _ => False
end

