-- ==== Sys2Proof/Laws/State.lean ====
section
/-! SUPPORT. One lemma per field per update of the block and of the machine, each true by `rfl`: no later proof unfolds a
record update. -/

namespace Sys2Proof.Machine

/-! ### `prologue` -/

@[simp] theorem prologue_staging (b : Block) : (prologue b).staging = b.staging := rfl
@[simp] theorem prologue_km (b : Block) : (prologue b).km = b.km := rfl
@[simp] theorem prologue_memo (b : Block) : (prologue b).memo = b.memo := rfl
@[simp] theorem prologue_status (b : Block) : (prologue b).status = clearedStatus := rfl
@[simp] theorem prologue_results (b : Block) : (prologue b).results = clearedResults := rfl

/-! ### `epilogueSuccess` -/

@[simp] theorem epilogueSuccess_staging (b : Block) : (epilogueSuccess b).staging = b.staging := rfl
@[simp] theorem epilogueSuccess_km (b : Block) : (epilogueSuccess b).km = b.km := rfl
@[simp] theorem epilogueSuccess_memo (b : Block) : (epilogueSuccess b).memo = b.memo := rfl
@[simp] theorem epilogueSuccess_status (b : Block) : (epilogueSuccess b).status = { b.status with ok := true } := rfl
@[simp] theorem epilogueSuccess_results (b : Block) : (epilogueSuccess b).results = b.results := rfl

/-! ### `epilogueFailure` -/

@[simp] theorem epilogueFailure_staging (c : ErrClass) (f : ErrField) (b : Block) : (epilogueFailure c f b).staging = b.staging := rfl
@[simp] theorem epilogueFailure_km (c : ErrClass) (f : ErrField) (b : Block) : (epilogueFailure c f b).km = b.km := rfl
@[simp] theorem epilogueFailure_memo (c : ErrClass) (f : ErrField) (b : Block) : (epilogueFailure c f b).memo = b.memo := rfl
@[simp] theorem epilogueFailure_status (c : ErrClass) (f : ErrField) (b : Block) : (epilogueFailure c f b).status = { b.status with err := true, errcode := errCode c, errfield := errField f } := rfl
@[simp] theorem epilogueFailure_results (c : ErrClass) (f : ErrField) (b : Block) : (epilogueFailure c f b).results = b.results := rfl

/-! ### `clearStaging` -/

@[simp] theorem clearStaging_staging (b : Block) : (clearStaging b).staging = clearedStaging := rfl
@[simp] theorem clearStaging_km (b : Block) : (clearStaging b).km = b.km := rfl
@[simp] theorem clearStaging_memo (b : Block) : (clearStaging b).memo = b.memo := rfl
@[simp] theorem clearStaging_status (b : Block) : (clearStaging b).status = b.status := rfl
@[simp] theorem clearStaging_results (b : Block) : (clearStaging b).results = b.results := rfl

/-! ### `constructKeyMaterial` -/

@[simp] theorem constructKeyMaterial_staging (k op : Bytes 16) (b : Block) : (constructKeyMaterial k op b).staging = b.staging := rfl
@[simp] theorem constructKeyMaterial_km (k op : Bytes 16) (b : Block) : (constructKeyMaterial k op b).km = { k := k, op := op, valid := true } := rfl
@[simp] theorem constructKeyMaterial_memo (k op : Bytes 16) (b : Block) : (constructKeyMaterial k op b).memo = { opc := zeros 16, valid := false } := rfl
@[simp] theorem constructKeyMaterial_status (k op : Bytes 16) (b : Block) : (constructKeyMaterial k op b).status = b.status := rfl
@[simp] theorem constructKeyMaterial_results (k op : Bytes 16) (b : Block) : (constructKeyMaterial k op b).results = b.results := rfl

/-! ### `blockAfterSuccess` -/

@[simp] theorem blockAfterSuccess_staging (km : KeyMaterial) (m : Memo) (r : Results) : (blockAfterSuccess km m r).staging = clearedStaging := rfl
@[simp] theorem blockAfterSuccess_km (km : KeyMaterial) (m : Memo) (r : Results) : (blockAfterSuccess km m r).km = km := rfl
@[simp] theorem blockAfterSuccess_memo (km : KeyMaterial) (m : Memo) (r : Results) : (blockAfterSuccess km m r).memo = m := rfl
@[simp] theorem blockAfterSuccess_status (km : KeyMaterial) (m : Memo) (r : Results) : (blockAfterSuccess km m r).status = successStatus := rfl
@[simp] theorem blockAfterSuccess_results (km : KeyMaterial) (m : Memo) (r : Results) : (blockAfterSuccess km m r).results = r := rfl

/-! ### `blockAfterFailure` -/

@[simp] theorem blockAfterFailure_staging (c : ErrClass) (f : ErrField) (b : Block) : (blockAfterFailure c f b).staging = clearedStaging := rfl
@[simp] theorem blockAfterFailure_km (c : ErrClass) (f : ErrField) (b : Block) : (blockAfterFailure c f b).km = b.km := rfl
@[simp] theorem blockAfterFailure_memo (c : ErrClass) (f : ErrField) (b : Block) : (blockAfterFailure c f b).memo = b.memo := rfl
@[simp] theorem blockAfterFailure_status (c : ErrClass) (f : ErrField) (b : Block) : (blockAfterFailure c f b).status = failureStatus c f := rfl
@[simp] theorem blockAfterFailure_results (c : ErrClass) (f : ErrField) (b : Block) : (blockAfterFailure c f b).results = clearedResults := rfl

/-! ### `onBlock` -/

@[simp] theorem onBlock_block (g : Block → Block) (s : State) : (onBlock g s).block = g s.block := rfl
@[simp] theorem onBlock_script (g : Block → Block) (s : State) : (onBlock g s).script = s.script := rfl
@[simp] theorem onBlock_returned (g : Block → Block) (s : State) : (onBlock g s).returned = s.returned := rfl
@[simp] theorem onBlock_source (g : Block → Block) (s : State) : (onBlock g s).source = s.source := rfl
@[simp] theorem onBlock_draws (g : Block → Block) (s : State) : (onBlock g s).draws = s.draws := rfl
@[simp] theorem onBlock_inst (g : Block → Block) (s : State) : (onBlock g s).inst = s.inst := rfl

/-! ### `applyReset` -/

@[simp] theorem applyReset_block (s : State) : (applyReset s).block = Block.reset := rfl
@[simp] theorem applyReset_script (s : State) : (applyReset s).script = s.script := rfl
@[simp] theorem applyReset_returned (s : State) : (applyReset s).returned = s.returned := rfl
@[simp] theorem applyReset_source (s : State) : (applyReset s).source = s.source := rfl
@[simp] theorem applyReset_draws (s : State) : (applyReset s).draws = s.draws := rfl
@[simp] theorem applyReset_inst (s : State) : (applyReset s).inst = s.inst := rfl

/-! ### `finishSuccess` -/

@[simp] theorem finishSuccess_block (s : State) : (finishSuccess s).block = clearStaging (epilogueSuccess s.block) := rfl
@[simp] theorem finishSuccess_script (s : State) : (finishSuccess s).script = s.script := rfl
@[simp] theorem finishSuccess_returned (s : State) : (finishSuccess s).returned = s.returned := rfl
@[simp] theorem finishSuccess_source (s : State) : (finishSuccess s).source = s.source := rfl
@[simp] theorem finishSuccess_draws (s : State) : (finishSuccess s).draws = s.draws := rfl
@[simp] theorem finishSuccess_inst (s : State) : (finishSuccess s).inst = s.inst := rfl

/-! ### `takeFailure` -/

@[simp] theorem takeFailure_block (c : ErrClass) (f : ErrField) (s : State) : (takeFailure c f s).block = clearStaging (epilogueFailure c f s.block) := rfl
@[simp] theorem takeFailure_script (c : ErrClass) (f : ErrField) (s : State) : (takeFailure c f s).script = s.script := rfl
@[simp] theorem takeFailure_returned (c : ErrClass) (f : ErrField) (s : State) : (takeFailure c f s).returned = s.returned := rfl
@[simp] theorem takeFailure_source (c : ErrClass) (f : ErrField) (s : State) : (takeFailure c f s).source = s.source := rfl
@[simp] theorem takeFailure_draws (c : ErrClass) (f : ErrField) (s : State) : (takeFailure c f s).draws = s.draws := rfl
@[simp] theorem takeFailure_inst (c : ErrClass) (f : ErrField) (s : State) : (takeFailure c f s).inst = s.inst := rfl

/-! ### `pushPortWrite` -/

@[simp] theorem pushPortWrite_block (x : Operand) (v : Byte) (s : State) : (pushPortWrite x v s).block = { s.block with staging := pushOperand x v s.block.staging } := rfl
@[simp] theorem pushPortWrite_script (x : Operand) (v : Byte) (s : State) : (pushPortWrite x v s).script = s.script := rfl
@[simp] theorem pushPortWrite_returned (x : Operand) (v : Byte) (s : State) : (pushPortWrite x v s).returned = s.returned := rfl
@[simp] theorem pushPortWrite_source (x : Operand) (v : Byte) (s : State) : (pushPortWrite x v s).source = s.source := rfl
@[simp] theorem pushPortWrite_draws (x : Operand) (v : Byte) (s : State) : (pushPortWrite x v s).draws = s.draws := rfl
@[simp] theorem pushPortWrite_inst (x : Operand) (v : Byte) (s : State) : (pushPortWrite x v s).inst = s.inst := rfl

/-! ### `hostRead` -/

@[simp] theorem hostRead_block (a : Byte) (s : State) : ((hostRead a s).2).block = s.block := rfl
@[simp] theorem hostRead_script (a : Byte) (s : State) : ((hostRead a s).2).script = s.script := rfl
@[simp] theorem hostRead_returned (a : Byte) (s : State) : ((hostRead a s).2).returned = s.returned ++ [memRead s.block a] := rfl
@[simp] theorem hostRead_source (a : Byte) (s : State) : ((hostRead a s).2).source = s.source := rfl
@[simp] theorem hostRead_draws (a : Byte) (s : State) : ((hostRead a s).2).draws = s.draws := rfl
@[simp] theorem hostRead_inst (a : Byte) (s : State) : ((hostRead a s).2).inst = s.inst := rfl

/-- The byte a host read returns is the byte the read table gives (R51). -/
@[simp] theorem hostRead_fst (a : Byte) (s : State) : (hostRead a s).1 = memRead s.block a := rfl

end Sys2Proof.Machine
end

