-- ==== Sys2Proof/Laws/Ops.lean ====
section
/-! SUPPORT. What each shared operation can do, said once: byte strings, pushes, checks, the command frame, the memo, the
random draw and the operand selections. -/

namespace Sys2Proof.Machine

/-! ### Byte strings -/

@[simp] theorem getElem_zeros (n i : Nat) (h : i < n) : (zeros n)[i] = 0x00 := by simp [zeros]

@[simp] theorem xorBytes_getElem {n : Nat} (a b : Bytes n) (i : Nat) (h : i < n) :
    (xorBytes a b)[i] = a[i] ^^^ b[i] := by simp [xorBytes]

@[simp] theorem takeLeading_getElem {m n : Nat} (s : Bytes m) (hn : n ≤ m) (i : Nat) (h : i < n) :
    (takeLeading n s hn)[i] = s[i] := by simp [takeLeading]

theorem catBytes_getElem_left {n m : Nat} (a : Bytes n) (b : Bytes m) (i : Nat) (h : i < n) :
    (catBytes a b)[i]'(by omega) = a[i] := by simp [catBytes, h]

theorem catBytes_getElem_right {n m : Nat} (a : Bytes n) (b : Bytes m) (i : Nat) (h : n ≤ i) (h' : i < n + m) :
    (catBytes a b)[i] = b[i - n] := by simp [catBytes, Nat.not_lt.mpr h]

/-- Applying the same mask twice gives back the string (R18 (a), R159). -/
@[simp] theorem xorBytes_cancel {n : Nat} (a b : Bytes n) : xorBytes (xorBytes a b) b = a := by
  apply Vector.ext
  intro i h
  simp

@[simp] theorem byteAt_of_lt {n : Nat} (s : Bytes n) (i : Nat) (h : i < n) : byteAt s i = s[i] := by simp [byteAt, h]

@[simp] theorem byteAt_zeros (n i : Nat) : byteAt (zeros n) i = 0x00 := by
  by_cases h : i < n <;> simp [byteAt, h]

@[simp] theorem resultByte_cleared (r : ResultReg) (i : Nat) : resultByte r i clearedResults = 0x00 := by
  cases r <;> simp [resultByte, clearedResults]

/-! ### Pushes -/

/-- One push below saturation counts one byte (R27). -/
theorem countPush_lt {cnt : Byte} (h : cnt.toNat < 255) : (countPush cnt).toNat = cnt.toNat + 1 := by
  simp [countPush, h, BitVec.toNat_add]
  omega

/-- The counter never wraps (R18 (c)): it is the number of pushes, or 255. -/
theorem countPush_toNat (cnt : Byte) : (countPush cnt).toNat = min (cnt.toNat + 1) 255 := by
  have := cnt.isLt
  by_cases h : cnt.toNat < 255
  · rw [countPush_lt h]; omega
  · simp [countPush, h]; omega

/-- What a push does to byte `i` of the buffer (R27). -/
theorem pushByte_getElem {cap : Nat} (x : Staging cap) (v : Byte) (i : Nat) (h : i < cap) :
    (pushByte x v).buf[i] = if i = x.cnt.toNat then v else x.buf[i] := by
  by_cases hc : x.cnt.toNat < cap
  · by_cases hi : i = x.cnt.toNat
    · simp [pushByte, hi, hc]
    · have hi' : ¬ x.cnt.toNat = i := fun e => hi e.symm
      simp [pushByte, hc, hi, hi']
  · have hi : i ≠ x.cnt.toNat := by omega
    simp [pushByte, hc, hi]

/-- A cleared operand meets clause (f) of R36. -/
theorem stagingClean_cleared (cap : Nat) : StagingClean (clearedOperand cap) := by
  intro i _
  simp [clearedOperand]

/-- A push keeps clause (f) of R36. -/
theorem stagingClean_pushByte {cap : Nat} (hcap : cap ≤ 255) {x : Staging cap} (hx : StagingClean x) (v : Byte) :
    StagingClean (pushByte x v) := by
  intro i hi
  have hcnt : (pushByte x v).cnt.toNat = min (x.cnt.toNat + 1) 255 := countPush_toNat x.cnt
  have hne : i.val ≠ x.cnt.toNat := by have := i.isLt; omega
  have hle : x.cnt.toNat ≤ i.val := by have := i.isLt; omega
  simpa [pushByte_getElem, hne] using hx i hle

/-! ### Bodies and the frame -/

@[simp] theorem andThen_success {α β : Type} (a : α) (s : State) (k : α → State → Body β) :
    (Body.success a s).andThen k = k a s := rfl

@[simp] theorem andThen_failure {α β : Type} (c : ErrClass) (f : ErrField) (s : State) (k : α → State → Body β) :
    (Body.failure c f s).andThen k = .failure c f s := rfl

@[simp] theorem andThen_stuck {α β : Type} (r : Fault) (k : α → State → Body β) :
    (Body.stuck r).andThen k = .stuck r := rfl

@[simp] theorem require_true (c : ErrClass) (f : ErrField) (s : State) : require true c f s = .success () s := rfl

@[simp] theorem require_false (c : ErrClass) (f : ErrField) (s : State) : require false c f s = .failure c f s := rfl

/-- A body that succeeds after the prologue ends the command in success (R96, R98, R100). -/
theorem runCommand_success {body : State → Body Unit} {s t : State} (h : body (onBlock prologue s) = .success () t) :
    runCommand body s = .next (finishSuccess t) := by simp [runCommand, h]

/-- A body that raises after the prologue ends the command in failure (R96, R99, R100). -/
theorem runCommand_failure {body : State → Body Unit} {s t : State} {c : ErrClass} {f : ErrField}
    (h : body (onBlock prologue s) = .failure c f t) : runCommand body s = .next (takeFailure c f t) := by
  simp [runCommand, h]

/-- A body that waits for the random source never completes (R96). -/
theorem runCommand_stuck {body : State → Body Unit} {s : State} {r : Fault}
    (h : body (onBlock prologue s) = .stuck r) : runCommand body s = .fault r := by simp [runCommand, h]

/-- A failure raised before any write leaves exactly the block of R181. -/
theorem takeFailure_prologue (c : ErrClass) (f : ErrField) (b : Block) :
    clearStaging (epilogueFailure c f (prologue b)) = blockAfterFailure c f b := rfl

/-! ### The memo -/

@[simp] theorem ensureOpc_valid (P : Params) (km : KeyMaterial) (m : Memo) : (ensureOpc P km m).valid = true := by
  by_cases h : m.valid = true <;> simp [ensureOpc, h]

/-- `EnsureOPc` recomputes nothing for a filled memo and derives OPc for an empty one (R119). -/
theorem ensureOpc_cases (P : Params) (km : KeyMaterial) (m : Memo) :
    (m.valid = true ∧ ensureOpc P km m = m) ∨
      (m.valid = false ∧ ensureOpc P km m = { opc := deriveOpc P km.k km.op, valid := true }) := by
  cases h : m.valid <;> simp [ensureOpc, h]

/-- With a coherent memo, `EnsureOPc` answers `DeriveOPc(KM_K, KM_OP)` (R120). -/
theorem ensureOpc_of_coherent {P : Params} {b : Block} (h : MemoCoherent P b) :
    ensureOpc P b.km b.memo = { opc := deriveOpc P b.km.k b.km.op, valid := true } := by
  rcases ensureOpc_cases P b.km b.memo with ⟨hv, he⟩ | ⟨_, he⟩
  · have := h hv
    rw [he, ← this]
    cases hm : b.memo
    simp_all
  · exact he

/-! ### The result bitmap -/

@[simp] theorem rvalidOf_opcOut : rvalidOf [.opcOut] = 0x80 := by decide
@[simp] theorem rvalidOf_maca : rvalidOf [.maca] = 0x20 := by decide
@[simp] theorem rvalidOf_xres : rvalidOf [.xres] = 0x02 := by decide
@[simp] theorem rvalidOf_ck : rvalidOf [.ck] = 0x08 := by decide
@[simp] theorem rvalidOf_ik : rvalidOf [.ik] = 0x10 := by decide
@[simp] theorem rvalidOf_ak : rvalidOf [.ak] = 0x40 := by decide
@[simp] theorem rvalidOf_authVector : rvalidOf authVectorRegs = 0x1F := by decide

end Sys2Proof.Machine
end

