-- ==== Sys2Proof/Laws/Commands.lean ====
section
/-! SUPPORT. What each check and each command body answers, for operands that pass and operands that do not, with the memo
as `ensureOpc` leaves it. -/

namespace Sys2Proof.Machine

/-! ### Checks -/

theorem beq_of_eq {a b : Byte} (h : a = b) : (a == b) = true := by simp [h]

theorem beq_of_ne {a b : Byte} (h : a ≠ b) : (a == b) = false := by simpa using h

theorem requireKeyMaterial_held {s : State} (h : s.block.km.valid = true) :
    requireKeyMaterial s = .success () s := by simp [requireKeyMaterial, h]

theorem requireKeyMaterial_none {s : State} (h : s.block.km.valid = false) :
    requireKeyMaterial s = .failure .noKeyMaterial .km s := by simp [requireKeyMaterial, h]

theorem stagedRand_ok {s : State} (h : s.block.staging.rand.cnt = 16) :
    stagedRand s = .success s.block.staging.rand.buf s := by simp [stagedRand, h]

theorem stagedRand_bad {s : State} (h : s.block.staging.rand.cnt ≠ 16) :
    stagedRand s = .failure .invalidInputLength .rand s := by rw [stagedRand, beq_of_ne h]; rfl

theorem stagedSqn_ok {s : State} (h : s.block.staging.sqn.cnt = 6) :
    stagedSqn s = .success s.block.staging.sqn.buf s := by simp [stagedSqn, h]

theorem stagedSqn_bad {s : State} (h : s.block.staging.sqn.cnt ≠ 6) :
    stagedSqn s = .failure .invalidInputLength .sqn s := by rw [stagedSqn, beq_of_ne h]; rfl

/-- SQN as `GENAV` uses it (R157): staged when present, `0^6` when absent. -/
theorem selectSqn_ok {s : State} {sqnp : Bool} (h : sqnp = true → s.block.staging.sqn.cnt = 6) :
    selectSqn sqnp s = .success (if sqnp then s.block.staging.sqn.buf else zeros 6) s := by
  cases sqnp with
  | false => rfl
  | true => simp [selectSqn, stagedSqn_ok (h rfl)]

theorem selectSqn_bad {s : State} (h : s.block.staging.sqn.cnt ≠ 6) :
    selectSqn true s = .failure .invalidInputLength .sqn s := stagedSqn_bad h

/-- A drawn RAND, in the state of the body's start. -/
theorem selectRand_drawn {s : State} {d : Bytes 16} {src : RandomSource}
    (h : sourceAnswer s.draws s.source = some (d, src)) :
    selectRand false (onBlock prologue s) =
      .success d { onBlock prologue s with source := src, draws := s.draws + 1 } := by simp [selectRand, rngDraw, h]

/-- `EnsureOPc` in a body writes the memo and nothing else (R119). -/
theorem obtainOpc_eq (P : Params) (s : State) :
    obtainOpc P s = .success (ensureOpc P s.block.km s.block.memo).opc
      { s with block := { s.block with memo := ensureOpc P s.block.km s.block.memo } } := rfl

/-! ### The frame around a body -/

/-- A body that raises before it writes anything: the block of R181, and nothing else changed. -/
theorem runCommand_raises {s : State} {c : ErrClass} {f : ErrField} {body : State → Body Unit}
    (h : body (onBlock prologue s) = .failure c f (onBlock prologue s)) :
    runCommand body s = .next { s with block := blockAfterFailure c f s.block } := by
  rw [runCommand_failure h]; rfl

/-- A body that ends by writing its results, the memo being `m` by then. -/
theorem runCommand_writes {s t : State} {m : Memo} {regs : List ResultReg} {g : Results → Results}
    (ht : t.block = { prologue s.block with memo := m }) {body : State → Body Unit}
    (hb : body (onBlock prologue s) = writeResults regs g t) :
    runCommand body s = .next { t with
      block := blockAfterSuccess s.block.km m { g clearedResults with rvalid := rvalidOf regs } } := by
  obtain ⟨b, _, _, _, _, _⟩ := t
  simp only at ht
  subst ht
  rw [runCommand_success hb]; rfl

/-- The state when OPc has been obtained and nothing else written. -/
abbrev afterOpc (P : Params) (s : State) : State :=
  { s with block := { prologue s.block with memo := ensureOpc P s.block.km s.block.memo } }

/-! ### The commands -/

/-- `LOADKEY` with valid operands (R106). -/
theorem loadkey_success {s : State} (ho : s.block.staging.op.cnt = 16) (hk : s.block.staging.k.cnt = 16) :
    execLoadkey true true s = .next { s with
      block := blockAfterSuccess { k := s.block.staging.k.buf, op := s.block.staging.op.buf, valid := true }
        { opc := zeros 16, valid := false } clearedResults } := by
  rw [execLoadkey, runCommand_success (by simp [loadkeyBody, ho, hk]; rfl)]; rfl

theorem loadkey_bad_op {s : State} (ho : s.block.staging.op.cnt ≠ 16) :
    execLoadkey true true s = .next { s with block := blockAfterFailure .invalidKeyLength .op s.block } :=
  runCommand_raises (by
    rw [loadkeyBody]
    simp only [require_true, andThen_success, onBlock_block, prologue_staging, beq_of_ne ho]
    rfl)

theorem loadkey_bad_key {s : State} (ho : s.block.staging.op.cnt = 16) (hk : s.block.staging.k.cnt ≠ 16) :
    execLoadkey true true s = .next { s with block := blockAfterFailure .invalidKeyLength .key s.block } :=
  runCommand_raises (by
    rw [loadkeyBody]
    simp only [require_true, andThen_success, onBlock_block, prologue_staging, beq_of_eq ho, beq_of_ne hk]
    rfl)

theorem opcBody_success {s : State} (P : Params) (hv : s.block.km.valid = true) :
    runCommand (opcBody P) s = .next { s with
      block := blockAfterSuccess s.block.km (ensureOpc P s.block.km s.block.memo)
        { clearedResults with rvalid := rvalidOf [.opcOut], opcOut := (ensureOpc P s.block.km s.block.memo).opc } } :=
  runCommand_writes (t := afterOpc P s) (regs := [.opcOut])
    (g := fun r => { r with opcOut := (ensureOpc P s.block.km s.block.memo).opc }) rfl (by
    rw [opcBody, requireKeyMaterial_held (by exact hv)]; rfl)

theorem f1Body_success {s : State} (P : Params) (hv : s.block.km.valid = true) (hr : s.block.staging.rand.cnt = 16)
    (hs : s.block.staging.sqn.cnt = 6) :
    runCommand (f1Body P) s = .next { s with
      block := blockAfterSuccess s.block.km (ensureOpc P s.block.km s.block.memo)
        { clearedResults with
          rvalid := rvalidOf [.maca]
          maca := f1 P (ensureOpc P s.block.km s.block.memo).opc s.block.staging.rand.buf s.block.staging.sqn.buf
            amfConst } } :=
  runCommand_writes (t := afterOpc P s)
    (g := fun r =>
      { r with
        maca := f1 P (ensureOpc P s.block.km s.block.memo).opc s.block.staging.rand.buf s.block.staging.sqn.buf
          amfConst }) rfl (by
    rw [f1Body, requireKeyMaterial_held (by exact hv), andThen_success, stagedRand_ok (by exact hr), andThen_success,
      stagedSqn_ok (by exact hs)]
    rfl)

theorem f1Body_bad_rand {s : State} (P : Params) (hv : s.block.km.valid = true)
    (hr : s.block.staging.rand.cnt ≠ 16) :
    runCommand (f1Body P) s = .next { s with block := blockAfterFailure .invalidInputLength .rand s.block } :=
  runCommand_raises (by
    rw [f1Body, requireKeyMaterial_held (by exact hv), andThen_success, stagedRand_bad (by exact hr)]; rfl)

theorem f1Body_bad_sqn {s : State} (P : Params) (hv : s.block.km.valid = true) (hr : s.block.staging.rand.cnt = 16)
    (hs : s.block.staging.sqn.cnt ≠ 6) :
    runCommand (f1Body P) s = .next { s with block := blockAfterFailure .invalidInputLength .sqn s.block } :=
  runCommand_raises (by
    rw [f1Body, requireKeyMaterial_held (by exact hv), andThen_success, stagedRand_ok (by exact hr), andThen_success,
      stagedSqn_bad (by exact hs)]
    rfl)

theorem deriverBody_success {s : State} (P : Params) (reg : ResultReg)
    (put : (opc rand : Bytes 16) → Results → Results) (hv : s.block.km.valid = true)
    (hr : s.block.staging.rand.cnt = 16) :
    runCommand (deriverBody P reg put) s = .next { s with
      block := blockAfterSuccess s.block.km (ensureOpc P s.block.km s.block.memo)
        { put (ensureOpc P s.block.km s.block.memo).opc s.block.staging.rand.buf clearedResults with
          rvalid := rvalidOf [reg] } } :=
  runCommand_writes (t := afterOpc P s)
    (g := put (ensureOpc P s.block.km s.block.memo).opc s.block.staging.rand.buf) rfl (by
    rw [deriverBody, requireKeyMaterial_held (by exact hv), andThen_success, stagedRand_ok (by exact hr)]; rfl)

theorem deriverBody_bad_rand {s : State} (P : Params) (reg : ResultReg)
    (put : (opc rand : Bytes 16) → Results → Results) (hv : s.block.km.valid = true)
    (hr : s.block.staging.rand.cnt ≠ 16) :
    runCommand (deriverBody P reg put) s =
      .next { s with block := blockAfterFailure .invalidInputLength .rand s.block } :=
  runCommand_raises (by
    rw [deriverBody, requireKeyMaterial_held (by exact hv), andThen_success, stagedRand_bad (by exact hr)]; rfl)

/-- `GENAV` once RAND is chosen (R162 from step 2 on), with a good SQN: `u` is the state the choice has left. -/
theorem genavBody_success {s u : State} {sqnp randp : Bool} {rand : Bytes 16} (P : Params)
    (hv : s.block.km.valid = true) (hsel : selectRand randp (onBlock prologue s) = .success rand u)
    (hb : u.block = prologue s.block) (hs : sqnp = true → s.block.staging.sqn.cnt = 6) :
    runCommand (genavBody P sqnp randp) s = .next { u with
      block := blockAfterSuccess s.block.km (ensureOpc P s.block.km s.block.memo)
        { putAuthVector P (ensureOpc P s.block.km s.block.memo).opc rand
            (if sqnp then s.block.staging.sqn.buf else zeros 6) amfConst clearedResults with
          rvalid := rvalidOf authVectorRegs } } := by
  have h6 : sqnp = true → u.block.staging.sqn.cnt = 6 := by rw [hb]; exact hs
  rw [runCommand_writes (regs := authVectorRegs)
    (g := putAuthVector P (ensureOpc P s.block.km s.block.memo).opc rand
      (if sqnp then s.block.staging.sqn.buf else zeros 6) amfConst)
    (t := { u with block := { prologue s.block with memo := ensureOpc P s.block.km s.block.memo } }) rfl]
  rw [genavBody, requireKeyMaterial_held (by exact hv), andThen_success, hsel, andThen_success, selectSqn_ok h6,
    andThen_success, obtainOpc_eq, andThen_success, hb]
  rfl

/-- `GENAV` once RAND is chosen, with an SQN of the wrong length. -/
theorem genavBody_bad_sqn {s u : State} {randp : Bool} {rand : Bytes 16} (P : Params)
    (hv : s.block.km.valid = true) (hsel : selectRand randp (onBlock prologue s) = .success rand u)
    (hb : u.block = prologue s.block) (hs : s.block.staging.sqn.cnt ≠ 6) :
    runCommand (genavBody P true randp) s =
      .next { u with block := blockAfterFailure .invalidInputLength .sqn s.block } := by
  have h6 : u.block.staging.sqn.cnt ≠ 6 := by rw [hb]; exact hs
  rw [runCommand_failure (c := .invalidInputLength) (f := .sqn) (t := u) (by
    rw [genavBody, requireKeyMaterial_held (by exact hv), andThen_success, hsel, andThen_success, selectSqn_bad h6]
    rfl)]
  rw [takeFailure, onBlock, hb]
  rfl

theorem genavBody_bad_rand {s : State} {sqnp : Bool} (P : Params) (hv : s.block.km.valid = true)
    (hr : s.block.staging.rand.cnt ≠ 16) :
    runCommand (genavBody P sqnp true) s =
      .next { s with block := blockAfterFailure .invalidInputLength .rand s.block } :=
  runCommand_raises (by
    rw [genavBody, requireKeyMaterial_held (by exact hv), andThen_success, selectRand, if_pos rfl,
      stagedRand_bad (by exact hr)]
    rfl)

theorem genavBody_waits {s : State} {sqnp : Bool} (P : Params) (hv : s.block.km.valid = true)
    (ha : sourceAnswer s.draws s.source = none) :
    runCommand (genavBody P sqnp false) s = .fault .randomSourceSilent :=
  runCommand_stuck (by
    rw [genavBody, requireKeyMaterial_held (by exact hv), andThen_success]
    simp [selectRand, rngDraw, ha])

/-- A body whose first check is `KM_VALID = 1`, without a KeyMaterial. -/
theorem runCommand_needs_key {s : State} {k : Unit → State → Body Unit} (h : s.block.km.valid = false) :
    runCommand (fun s => (requireKeyMaterial s).andThen k) s =
      .next { s with block := blockAfterFailure .noKeyMaterial .km s.block } :=
  runCommand_raises (by rw [requireKeyMaterial_none (by exact h)]; rfl)

end Sys2Proof.Machine
end

