-- ==== Sys2Proof/Laws/Exec.lean ====
section
/-! SUPPORT. What a command can do, said once (`exec_effect`): every claim about all commands is a case analysis on
`CommandEffect`, with no command unfolded again. -/

namespace Sys2Proof.Machine

/-- The ways `exec` can answer for command `i` in state `s` (R17, R96 to R100, R103, R181). -/
inductive CommandEffect (i : Instr) (s : State) : Host.Outcome State Fault Refusal → Prop where
  /-- A check failed: the block of R181, and a draw only where one was made before the check. -/
  | failed (c : ErrClass) (f : ErrField) (src : RandomSource) (n : Nat)
      (pair : (errCode c, errField f) ∈ errorPairs) (draw : DrawEffect i s src n) :
      CommandEffect i s (.next { s with block := blockAfterFailure c f s.block, source := src, draws := n })
  /-- `CLR`. -/
  | cleared (isClr : i = .clr) :
      CommandEffect i s (.next { s with block := blockAfterSuccess s.block.km s.block.memo clearedResults })
  /-- `LOADKEY` with both operands present and 16 bytes long. -/
  | loaded (isLoad : i = .loadkey true true) :
      CommandEffect i s (.next { s with
        block := blockAfterSuccess { k := s.block.staging.k.buf, op := s.block.staging.op.buf, valid := true }
          { opc := zeros 16, valid := false } clearedResults })
  /-- A command that derives OPc, and leaves results `r`. -/
  | computed (r : Results) (src : RandomSource) (n : Nat) (needs : needsKeyMaterial i = true)
      (held : s.block.km.valid = true) (rvalid : r.rvalid = rvalidOf (filledRegs i))
      (clean : ∀ reg, ResultClean reg r) (draw : DrawEffect i s src n) :
      CommandEffect i s (.next { s with
        block := blockAfterSuccess s.block.km (ensureOpc (paramsOf s.inst) s.block.km s.block.memo) r,
        source := src, draws := n })
  /-- A draw that is not answered. -/
  | waiting (draws : drawsRand i = true) (held : s.block.km.valid = true)
      (silent : sourceAnswer s.draws s.source = none) : CommandEffect i s (.fault .randomSourceSilent)

/-! ### Results and draws -/

/-- Results with one register filled and its `RVALID` bit set are clean (R36 (e)). -/
theorem resultClean_of_single {reg reg' : ResultReg} {r : Results} (hv : r.rvalid = rvalidOf [reg'])
    (hz : reg ≠ reg' → ∀ i, resultByte reg i r = 0x00) : ResultClean reg r := by
  intro hbit i
  by_cases h : reg = reg'
  · subst h
    rw [hv] at hbit
    cases reg <;> exact absurd hbit (by decide)
  · exact hz h i

/-- The results of a successful `GENAV` are clean: its five registers have their bits set, the other three are zero. -/
theorem resultClean_authVector (P : Params) (opc rand : Bytes 16) (sqn : Bytes 6) (amf : Bytes 2) (reg : ResultReg) :
    ResultClean reg { putAuthVector P opc rand sqn amf clearedResults with rvalid := rvalidOf authVectorRegs } := by
  intro hbit i
  change (rvalidOf authVectorRegs).getLsbD reg.validBit = false at hbit
  cases reg <;> first
    | exact absurd hbit (by decide)
    | simp [resultByte, putAuthVector, clearedResults]

/-- The cleared results are clean. -/
theorem resultClean_cleared (reg : ResultReg) : ResultClean reg clearedResults := fun _ i => resultByte_cleared reg i

/-- Every command leaves a legal `RVALID` (R26). -/
theorem rvalidOf_filledRegs_mem (i : Instr) : rvalidOf (filledRegs i) ∈ rvalidValues := by
  cases i <;> simp only [filledRegs] <;> decide

/-- A command that asks for no draw leaves the source alone. -/
theorem drawEffect_none {i : Instr} {s : State} (h : drawsRand i = false ∨ s.block.km.valid = false) :
    DrawEffect i s s.source s.draws := by
  rcases h with h | h <;> simp [DrawEffect, h]

/-! ### The commands -/

/-- A failure raised before any draw. -/
theorem effect_of_raise {i : Instr} {s : State} {c : ErrClass} {f : ErrField} {o : Host.Outcome State Fault Refusal}
    (ho : o = .next { s with block := blockAfterFailure c f s.block }) (hp : (errCode c, errField f) ∈ errorPairs)
    (hd : drawsRand i = false ∨ s.block.km.valid = false) : CommandEffect i s o :=
  ho ▸ .failed c f s.source s.draws hp (drawEffect_none hd)

theorem execLoadkey_effect (opp kp : Bool) (s : State) :
    CommandEffect (.loadkey opp kp) s (execLoadkey opp kp s) := by
  cases opp with
  | false => exact effect_of_raise (c := .missingParameter) (f := .op) rfl (by decide) (.inl rfl)
  | true =>
    cases kp with
    | false => exact effect_of_raise (c := .missingParameter) (f := .key) rfl (by decide) (.inl rfl)
    | true =>
      by_cases ho : s.block.staging.op.cnt = 16
      · by_cases hk : s.block.staging.k.cnt = 16
        · rw [loadkey_success ho hk]; exact .loaded rfl
        · exact effect_of_raise (loadkey_bad_key ho hk) (by decide) (.inl rfl)
      · exact effect_of_raise (loadkey_bad_op ho) (by decide) (.inl rfl)

theorem execOpc_effect (s : State) : CommandEffect .opc s (execOpc s) := by
  cases hv : s.block.km.valid with
  | false => exact effect_of_raise (runCommand_needs_key hv) (by decide) (.inl rfl)
  | true =>
    rw [execOpc, opcBody_success _ hv]
    refine .computed _ s.source s.draws rfl hv rfl (fun reg => ?_) (drawEffect_none (.inl rfl))
    exact resultClean_of_single (reg' := .opcOut) rfl fun h i => by
      cases reg <;> simp_all [resultByte, clearedResults]

theorem execF1_effect (s : State) : CommandEffect .f1 s (execF1 s) := by
  cases hv : s.block.km.valid with
  | false => exact effect_of_raise (runCommand_needs_key hv) (by decide) (.inl rfl)
  | true =>
    by_cases hr : s.block.staging.rand.cnt = 16
    · by_cases hs : s.block.staging.sqn.cnt = 6
      · rw [execF1, f1Body_success _ hv hr hs]
        refine .computed _ s.source s.draws rfl hv rfl (fun reg => ?_) (drawEffect_none (.inl rfl))
        exact resultClean_of_single (reg' := .maca) rfl fun h i => by
          cases reg <;> simp_all [resultByte, clearedResults]
      · exact effect_of_raise (f1Body_bad_sqn _ hv hr hs) (by decide) (.inl rfl)
    · exact effect_of_raise (f1Body_bad_rand _ hv hr) (by decide) (.inl rfl)

/-- The shared body of `F2` to `F5` (R149). -/
theorem deriver_effect {i : Instr} {s : State} (reg : ResultReg) (put : (opc rand : Bytes 16) → Results → Results)
    (hi : needsKeyMaterial i = true) (hd : drawsRand i = false) (hreg : filledRegs i = [reg])
    (hput : ∀ opc rand v reg', reg' ≠ reg →
      ∀ j, resultByte reg' j { put opc rand clearedResults with rvalid := v } = 0x00) :
    CommandEffect i s (runCommand (deriverBody (paramsOf s.inst) reg put) s) := by
  cases hv : s.block.km.valid with
  | false => exact effect_of_raise (runCommand_needs_key hv) (by decide) (.inl hd)
  | true =>
    by_cases hr : s.block.staging.rand.cnt = 16
    · rw [deriverBody_success _ reg put hv hr]
      exact .computed _ s.source s.draws hi hv (by rw [hreg])
        (fun reg' => resultClean_of_single (reg' := reg) rfl fun h => hput _ _ _ reg' h) (drawEffect_none (.inl hd))
    · exact effect_of_raise (deriverBody_bad_rand _ reg put hv hr) (by decide) (.inl hd)

theorem execF2_effect (s : State) : CommandEffect .f2 s (execF2 s) :=
  deriver_effect .xres _ rfl rfl rfl fun _ _ _ reg h i => by cases reg <;> simp_all [resultByte, clearedResults]

theorem execF3_effect (s : State) : CommandEffect .f3 s (execF3 s) :=
  deriver_effect .ck _ rfl rfl rfl fun _ _ _ reg h i => by cases reg <;> simp_all [resultByte, clearedResults]

theorem execF4_effect (s : State) : CommandEffect .f4 s (execF4 s) :=
  deriver_effect .ik _ rfl rfl rfl fun _ _ _ reg h i => by cases reg <;> simp_all [resultByte, clearedResults]

theorem execF5_effect (s : State) : CommandEffect .f5 s (execF5 s) :=
  deriver_effect .ak _ rfl rfl rfl fun _ _ _ reg h i => by cases reg <;> simp_all [resultByte, clearedResults]

/-- `GENAV` once RAND is chosen, staged or drawn. -/
theorem genav_effect_after_rand {s : State} {sqnp randp : Bool} {rand : Bytes 16} {src : RandomSource} {n : Nat}
    (hv : s.block.km.valid = true)
    (hsel : selectRand randp (onBlock prologue s) =
      .success rand { onBlock prologue s with source := src, draws := n })
    (hd : DrawEffect (.genav sqnp randp) s src n) :
    CommandEffect (.genav sqnp randp) s (execGenav sqnp randp s) := by
  by_cases hs : sqnp = true → s.block.staging.sqn.cnt = 6
  · rw [execGenav, genavBody_success _ hv hsel rfl hs]
    exact .computed _ src n rfl hv rfl (resultClean_authVector _ _ _ _ _) hd
  · obtain ⟨rfl, hlen⟩ := Classical.not_imp.mp hs
    rw [execGenav, genavBody_bad_sqn _ hv hsel rfl hlen]
    exact .failed .invalidInputLength .sqn src n (by decide) hd

theorem execGenav_effect (sqnp randp : Bool) (s : State) :
    CommandEffect (.genav sqnp randp) s (execGenav sqnp randp s) := by
  cases hv : s.block.km.valid with
  | false => exact effect_of_raise (runCommand_needs_key hv) (by decide) (.inr hv)
  | true =>
    cases randp with
    | true =>
      by_cases hr : s.block.staging.rand.cnt = 16
      · exact genav_effect_after_rand (rand := s.block.staging.rand.buf) (src := s.source) (n := s.draws) hv
          (stagedRand_ok (s := onBlock prologue s) hr) (drawEffect_none (.inl rfl))
      · exact effect_of_raise (genavBody_bad_rand _ hv hr) (by decide) (.inl rfl)
    | false =>
      cases ha : sourceAnswer s.draws s.source with
      | none => rw [execGenav, genavBody_waits _ hv ha]; exact .waiting rfl hv ha
      | some da =>
        exact genav_effect_after_rand hv (selectRand_drawn ha) 
          (by simp only [DrawEffect, drawsRand, hv]; exact ⟨⟨da.1, ha⟩, trivial⟩)

/-- Everything a command can do. -/
theorem exec_effect (i : Instr) (s : State) : CommandEffect i s (exec i s) := by
  cases i with
  | clr => exact .cleared rfl
  | loadkey opp kp => exact execLoadkey_effect opp kp s
  | opc => exact execOpc_effect s
  | f1 => exact execF1_effect s
  | f2 => exact execF2_effect s
  | f3 => exact execF3_effect s
  | f4 => exact execF4_effect s
  | f5 => exact execF5_effect s
  | genav sqnp randp => exact execGenav_effect sqnp randp s

/-- The same, for a command known to answer a next state. -/
theorem exec_next_effect {i : Instr} {s t : State} (h : exec i s = .next t) : CommandEffect i s (.next t) :=
  h ▸ exec_effect i s

/-- An illegal command byte (R76, R77): the failed command of R181. -/
theorem illegal_effect (s : State) :
    runCommand illegalBody s = .next { s with block := blockAfterFailure .illegalCommand .cmd s.block } := rfl

end Sys2Proof.Machine
end

