-- ==== Sys2Proof/Laws/GenAv.lean ====
section
/-! SUPPORT. `GENAV` in closed form, by how RAND was chosen; and where its bytes stand in the registers. -/

namespace Sys2Proof.Machine

/-- The results of a successful `GENAV` on `rand` and `sqn` (R162 step 12). -/
abbrev vectorResults (P : Params) (opc rand : Bytes 16) (sqn : Bytes 6) : Results :=
  { putAuthVector P opc rand sqn amfConst clearedResults with rvalid := rvalidOf authVectorRegs }

/-- `GENAV` with a KeyMaterial held, by how RAND was chosen (R162): each of its ends in closed form. -/
theorem genav_by_rand {s : State} (sqnp randp : Bool) (hv : s.block.km.valid = true) :
    exec (.genav sqnp randp) s =
      match selectRand randp s with
      | .success rand u =>
        if sqnp = true → s.block.staging.sqn.cnt = 6 then
          .next { u with
            block := blockAfterSuccess s.block.km (ensureOpc (paramsOf s.inst) s.block.km s.block.memo)
              (vectorResults (paramsOf s.inst) (ensureOpc (paramsOf s.inst) s.block.km s.block.memo).opc rand
                (if sqnp then s.block.staging.sqn.buf else zeros 6)) }
        else .next { u with block := blockAfterFailure .invalidInputLength .sqn s.block }
      | .failure c f u => .next { u with block := blockAfterFailure c f s.block }
      | .stuck r => .fault r := by
  change runCommand (genavBody (paramsOf s.inst) sqnp randp) s = _
  cases randp with
  | true =>
    by_cases hr : s.block.staging.rand.cnt = 16
    · rw [selectRand, if_pos rfl, stagedRand_ok hr]
      have hsel : selectRand true (onBlock prologue s) = .success s.block.staging.rand.buf (onBlock prologue s) :=
        stagedRand_ok (s := onBlock prologue s) hr
      by_cases hs : sqnp = true → s.block.staging.sqn.cnt = 6
      · rw [genavBody_success _ hv hsel rfl hs]; exact (if_pos hs).symm
      · obtain ⟨rfl, hlen⟩ := Classical.not_imp.mp hs
        rw [genavBody_bad_sqn _ hv hsel rfl hlen]; exact (if_neg hs).symm
    · rw [selectRand, if_pos rfl, stagedRand_bad hr, genavBody_bad_rand _ hv hr]
  | false =>
    cases ha : sourceAnswer s.draws s.source with
    | none => rw [genavBody_waits _ hv ha, selectRand, if_neg (by decide), rngDraw, ha]
    | some da =>
      have hsel := selectRand_drawn (s := s) (d := da.1) (src := da.2) ha
      rw [selectRand, if_neg (by decide), rngDraw, ha]
      by_cases hs : sqnp = true → s.block.staging.sqn.cnt = 6
      · rw [genavBody_success _ hv hsel rfl hs]; exact (if_pos hs).symm
      · obtain ⟨rfl, hlen⟩ := Classical.not_imp.mp hs
        rw [genavBody_bad_sqn _ hv hsel rfl hlen]; exact (if_neg hs).symm

/-- What the choice of RAND answers and leaves (R156): the source and the count of draws at most. -/
theorem selectRand_success {s u : State} {randp : Bool} {rand : Bytes 16} (h : selectRand randp s = .success rand u) :
    ∃ (src : RandomSource) (n : Nat), u = { s with source := src, draws := n } := by
  cases randp with
  | true =>
    by_cases hr : s.block.staging.rand.cnt = 16
    · rw [selectRand, if_pos rfl, stagedRand_ok hr] at h; cases h; exact ⟨_, _, rfl⟩
    · rw [selectRand, if_pos rfl, stagedRand_bad hr] at h; cases h
  | false =>
    rw [selectRand, if_neg (by decide), rngDraw] at h
    split at h
    · cases h
    · cases h; exact ⟨_, _, rfl⟩

/-- A successful `GENAV`, in closed form. -/
theorem genav_success_form {s t : State} {sqnp randp : Bool} (h : exec (.genav sqnp randp) s = .next t)
    (hok : t.block.status.ok = true) :
    ∃ (rand : Bytes 16) (src : RandomSource) (n : Nat), t = { s with
      block := blockAfterSuccess s.block.km (ensureOpc (paramsOf s.inst) s.block.km s.block.memo)
        (vectorResults (paramsOf s.inst) (ensureOpc (paramsOf s.inst) s.block.km s.block.memo).opc rand
          (if sqnp then s.block.staging.sqn.buf else zeros 6))
      source := src
      draws := n } := by
  cases hv : s.block.km.valid with
  | false =>
    change runCommand _ s = _ at h
    unfold genavBody at h
    rw [runCommand_needs_key hv] at h; cases h; cases hok
  | true =>
    rw [genav_by_rand sqnp randp hv] at h
    split at h
    · rename_i hsel
      obtain ⟨src, n, rfl⟩ := selectRand_success hsel
      split at h
      · cases h; exact ⟨_, _, _, rfl⟩
      · cases h; cases hok
    · cases h; cases hok
    · cases h

end Sys2Proof.Machine
end

