-- ==== Sys2Proof/Laws/Transactions.lean ====
section
/-! SUPPORT. The address map (R56), the decoder on all 256 bytes, and what one step can do (`step_cases`). -/

namespace Sys2Proof.Machine

/-! ### The address map -/

theorem locate_cmd_iff : ∀ a : Byte, locate a = .cmd ↔ a = 0x00 := by decide

theorem locate_pushPort : ∀ x : Operand, locate x.pushPort = .pushPort x := by intro x; cases x <;> decide

/-- Only a push port's own address is that push port. -/
theorem eq_pushPort_of_locate {a : Byte} {x : Operand} (h : locate a = .pushPort x) : a = x.pushPort := by
  have : ∀ a : Byte, ∀ x ∈ [Operand.k, .op, .rand, .sqn], locate a = .pushPort x → a = x.pushPort := by decide
  exact this a x (by cases x <;> simp) h

/-- Byte `i` of a result register is at `base + i` (R31, R53). -/
theorem locate_result (r : ResultReg) (i : Nat) (h : i < r.size) :
    locate (BitVec.ofNat 8 (r.base + i)) = .result r i := by
  have key : ∀ j : Fin 16, j.val < r.size → locate (BitVec.ofNat 8 (r.base + j.val)) = .result r j.val := by
    cases r <;> decide
  exact key ⟨i, by cases r <;> simp [ResultReg.size] at h <;> omega⟩ h

/-- A host read of byte `i` of a result register (R31, R51). -/
theorem memRead_result (b : Block) (r : ResultReg) (i : Nat) (h : i < r.size) :
    memRead b (BitVec.ofNat 8 (r.base + i)) = resultByte r i b.results := by
  simp [memRead, locate_result r i h]

/-- `STATUS` bit by bit (R24). -/
theorem statusByte_eq (b : Block) :
    statusByte b = 0#4 ++ BitVec.ofBool b.status.err ++ BitVec.ofBool b.status.ok ++ BitVec.ofBool b.memo.valid ++
      BitVec.ofBool b.km.valid := by
  unfold statusByte
  cases b.status.err <;> cases b.status.ok <;> cases b.memo.valid <;> cases b.km.valid <;> decide

/-- Bit 3 of `STATUS` is `ERR` (R24). -/
theorem statusByte_err (b : Block) : (statusByte b).getLsbD 3 = b.status.err := by
  unfold statusByte
  cases b.status.err <;> cases b.status.ok <;> cases b.memo.valid <;> cases b.km.valid <;> decide

/-! ### The decoder -/

theorem instr?_isSome_iff (c : Byte) : (decode c).instr?.isSome = true ↔ ∃ i, decode c = .instr i := by
  cases decode c <;> simp [Decoded.instr?]

/-- The only byte of `LOADKEY OPP,KP` (R81). -/
theorem decode_loadkey_both : ∀ c : Byte, decode c = .instr (.loadkey true true) → c = 0x31 := by decide

/-! ### One step -/

/-- A write to `CMD` executes the byte (R52, R96). -/
theorem step_command {s : State} {c : Byte} {rest : List Transaction} (h : s.script = .write 0x00 c :: rest) :
    step s = execCommand c { s with script := rest } := by
  simp only [step, nextTransaction, h]; rfl

/-- A write to a push port pushes (R52). -/
theorem transact_push (x : Operand) (v : Byte) (s : State) :
    transact (.write x.pushPort v) s = .next (pushPortWrite x v s) := by cases x <;> rfl

/-- Everything a transaction can do: a read, a reset, a command, an illegal byte, a push, or a write that is ignored. -/
theorem transact_cases {tx : Transaction} {s t : State} (h : transact tx s = .next t) :
    (∃ a, tx = .read a ∧ t = { s with returned := s.returned ++ [memRead s.block a] }) ∨
    (tx = .reset ∧ t = { s with block := Block.reset }) ∨
    (∃ c i, tx = .write 0x00 c ∧ decode c = .instr i ∧ exec i s = .next t) ∨
    (∃ c, tx = .write 0x00 c ∧ (∀ i, decode c ≠ .instr i) ∧
      t = { s with block := blockAfterFailure .illegalCommand .cmd s.block }) ∨
    (∃ x v, tx = .write x.pushPort v ∧ t = pushPortWrite x v s) ∨
    (∃ a v, tx = .write a v ∧ a ≠ 0x00 ∧ t = s) := by
  cases tx with
  | read a => cases h; exact .inl ⟨a, rfl, rfl⟩
  | reset => cases h; exact .inr (.inl ⟨rfl, rfl⟩)
  | write a v =>
    refine .inr (.inr ?_)
    by_cases h0 : a = 0x00
    · subst h0
      change execCommand v _ = _ at h
      rw [execCommand] at h
      cases hd : decode v with
      | instr i => rw [hd] at h; exact .inl ⟨v, i, rfl, hd, h⟩
      | illegal w =>
        rw [hd] at h
        simp only [illegal_effect] at h
        cases h
        exact .inr (.inl ⟨v, rfl, by simp [hd], rfl⟩)
    · refine .inr (.inr ?_)
      simp only [transact] at h
      unfold memWrite at h
      split at h
      · rename_i hl; exact absurd ((locate_cmd_iff a).mp hl) h0
      · rename_i x hl
        cases h
        exact .inl ⟨x, v, by rw [eq_pushPort_of_locate hl], rfl⟩
      all_goals (cases h; exact .inr ⟨a, v, rfl, h0, rfl⟩)

/-- A step is the next transaction on the state without it, or, with none pending, nothing (R59, R191). -/
theorem step_eq_transact {s : State} {tx : Transaction} {rest : List Transaction} (h : s.script = tx :: rest) :
    step s = transact tx { s with script := rest } := by
  simp only [step, nextTransaction, h]

theorem step_next_cases {s t : State} (h : step s = .next t) :
    (s.script = [] ∧ t = s) ∨
      ∃ tx rest, s.script = tx :: rest ∧ transact tx { s with script := rest } = .next t := by
  cases hs : s.script with
  | nil =>
    simp only [step, nextTransaction, hs] at h
    cases h; exact .inl ⟨rfl, rfl⟩
  | cons tx rest => exact .inr ⟨tx, rest, rfl, (step_eq_transact hs).symm.trans h⟩

end Sys2Proof.Machine
end

