-- ==== Sys2Proof/Laws/Driver.lean ====
section
/-! SUPPORT. What the host's scripts and pseudo-operations do to the machine, one lemma per operation. -/

namespace Sys2Proof.Machine

/-- Running `PUSH X, bytes` first (R82): the pushes, then the rest of the script. -/
theorem runScript_push_append (x : Operand) (vs : ByteString) (rest : List Transaction) (s : State) :
    runScript (pushScript x vs ++ rest) s = runScript rest (vs.foldl (fun s v => pushPortWrite x v s) s) := by
  induction vs generalizing s with
  | nil => rfl
  | cons v vs ih =>
    simp only [pushScript, List.map_cons, List.cons_append, runScript, transact_push, List.foldl_cons]
    exact ih _

/-- Pushing a string onto the port of OP touches OP's staging alone (R27). -/
theorem foldl_push_op (vs : ByteString) (s : State) :
    vs.foldl (fun s v => pushPortWrite .op v s) s = { s with
      block := { s.block with staging := { s.block.staging with op := vs.foldl pushByte s.block.staging.op } } } := by
  induction vs generalizing s with
  | nil => rfl
  | cons v vs ih => simp only [List.foldl_cons]; exact ih _

/-- The same for K. -/
theorem foldl_push_k (vs : ByteString) (s : State) :
    vs.foldl (fun s v => pushPortWrite .k v s) s = { s with
      block := { s.block with staging := { s.block.staging with k := vs.foldl pushByte s.block.staging.k } } } := by
  induction vs generalizing s with
  | nil => rfl
  | cons v vs ih => simp only [List.foldl_cons]; exact ih _

/-- The same for RAND. -/
theorem foldl_push_rand (vs : ByteString) (s : State) :
    vs.foldl (fun s v => pushPortWrite .rand v s) s = { s with
      block :=
        { s.block with staging := { s.block.staging with rand := vs.foldl pushByte s.block.staging.rand } } } := by
  induction vs generalizing s with
  | nil => rfl
  | cons v vs ih => simp only [List.foldl_cons]; exact ih _

/-- The same for SQN. -/
theorem foldl_push_sqn (vs : ByteString) (s : State) :
    vs.foldl (fun s v => pushPortWrite .sqn v s) s = { s with
      block := { s.block with staging := { s.block.staging with sqn := vs.foldl pushByte s.block.staging.sqn } } } := by
  induction vs generalizing s with
  | nil => rfl
  | cons v vs ih => simp only [List.foldl_cons]; exact ih _

/-- `ISSUE` of a command whose byte decodes to it is that command's `exec` (R83, R96). -/
theorem runScript_issue {i : Instr} (h : decode (encode i) = .instr i) (s : State) :
    runScript (issueScript i) s = exec i s := by
  have hx : transact (.write 0x00 (encode i)) s = exec i s := by
    show execCommand _ _ = _
    rw [execCommand, h]
  simp only [issueScript, runScript, hx]
  cases exec i s <;> rfl

/-- The status check of R86 and R87: the failure's code and field, or the rest of the pseudo-operation; nothing is changed
but the list of bytes returned. -/
theorem checkOutcome_eq {α : Type} (t : State) (k : State → DriverOutcome α) :
    ∃ bytes, checkOutcome t k =
      if t.block.status.err = true then
        .next (.failure t.block.status.errcode t.block.status.errfield, { t with returned := bytes })
      else k { t with returned := bytes } := by
  have hbit : (memRead t.block 0x01).getLsbD 3 = t.block.status.err := statusByte_err t.block
  cases he : t.block.status.err with
  | true => exact ⟨_, if_pos (hbit.trans he)⟩
  | false => exact ⟨_, if_neg (by show ¬ (memRead t.block 0x01).getLsbD 3 = true; rw [hbit, he]; decide)⟩

/-- The status check after a failed command (R86, R87): the failure's code and field, the block as it was. -/
theorem checkOutcome_failed {α : Type} (t : State) (k : State → DriverOutcome α) (he : t.block.status.err = true) :
    ∃ u, checkOutcome t k = .next (.failure t.block.status.errcode t.block.status.errfield, u) ∧
      u.block = t.block := by
  obtain ⟨bytes, h⟩ := checkOutcome_eq t k
  exact ⟨_, h.trans (if_pos he), rfl⟩

/-- The status check after a successful command: the rest of the pseudo-operation, the block as it was. -/
theorem checkOutcome_passed {α : Type} (t : State) (k : State → DriverOutcome α) (he : t.block.status.err = false) :
    ∃ u, checkOutcome t k = k u ∧ u.block = t.block := by
  obtain ⟨bytes, h⟩ := checkOutcome_eq t k
  exact ⟨_, h.trans (if_neg (by simp [he])), rfl⟩

/-- Reads return what the block shows and change nothing in it (R51, R55). -/
theorem hostReadMany_eq (l : List Byte) (s : State) :
    (hostReadMany l s).1 = l.map (memRead s.block) ∧ (hostReadMany l s).2.block = s.block := by
  induction l generalizing s with
  | nil => exact ⟨rfl, rfl⟩
  | cons a l ih =>
    obtain ⟨h1, h2⟩ := ih (hostRead a s).2
    exact ⟨by rw [hostReadMany]; simp only [h1]; rfl, h2⟩

/-- `READ R` returns the register's bytes in address order (R84). -/
theorem hostReadReg_eq (r : ResultReg) (s : State) :
    (hostReadReg r s).1 = (List.range r.size).map (fun i => resultByte r i s.block.results) ∧
      (hostReadReg r s).2.block = s.block := by
  refine ⟨?_, (hostReadMany_eq _ _).2⟩
  rw [hostReadReg, (hostReadMany_eq _ _).1, addressRange, List.map_map]
  apply List.map_congr_left
  intro i hi
  exact memRead_result _ _ _ (List.mem_range.mp hi)

/-- A string from its bytes in index order. -/
theorem map_byteAt {n : Nat} (v : Bytes n) : (List.range n).map (fun i => byteAt v i) = v.toList := by
  apply List.ext_getElem (by simp)
  intro i h1 h2
  simp at h1
  simp [byteAt, h1]

/-- The five reads of `GENERATE_AV` (R87). -/
theorem readVector_eq (s : State) :
    (readVector s).1 =
      { rand := s.block.results.randOut.toList, xres := s.block.results.xres.toList,
        autn := s.block.results.autn.toList, ck := s.block.results.ck.toList, ik := s.block.results.ik.toList } := by
  have h1 := hostReadReg_eq .randOut s
  have h2 := hostReadReg_eq .xres (hostReadReg .randOut s).2
  have h3 := hostReadReg_eq .autn (hostReadReg .xres (hostReadReg .randOut s).2).2
  have h4 := hostReadReg_eq .ck (hostReadReg .autn (hostReadReg .xres (hostReadReg .randOut s).2).2).2
  have h5 := hostReadReg_eq .ik
    (hostReadReg .ck (hostReadReg .autn (hostReadReg .xres (hostReadReg .randOut s).2).2).2).2
  simp only [readVector, h1, h2, h3, h4, h5]
  simp only [← map_byteAt]
  rfl

/-! ### The pseudo-operations and the request -/

/-- Staging an operand that may be absent, first in a script (R86, R87). -/
theorem runScript_pushIfPresent_append (x : Operand) (vs : Option ByteString) (rest : List Transaction) (s : State) :
    runScript (pushIfPresent x vs ++ rest) s =
      runScript rest ((vs.getD []).foldl (fun s v => pushPortWrite x v s) s) := by
  cases vs with
  | none => rfl
  | some vs => exact runScript_push_append x vs rest s

/-- Going on from a script whose run is known (R211). -/
theorem afterScript_eq {α : Type} {ts : List Transaction} {s : State} {o : Host.Outcome State Fault Refusal}
    (k : State → DriverOutcome α) :
    runScript ts s = o → afterScript ts s k =
      match o with
      | .next t => k t
      | .fault r => .fault r
      | .refused r => .refused r := by
  rintro rfl
  rfl

/-- The machine when `LOAD_KEYMATERIAL` has staged its operands (R86). -/
abbrev keysPushed (op key : Option ByteString) (s : State) : State :=
  { s with block := { s.block with staging := { s.block.staging with
      op := (op.getD []).foldl pushByte s.block.staging.op
      k := (key.getD []).foldl pushByte s.block.staging.k } } }

/-- `LOAD_KEYMATERIAL` is one `LOADKEY` on the staged operands, then the status check (R86). -/
theorem loadKeyMaterial_eq (op key : Option ByteString) (s : State) :
    loadKeyMaterial op key s =
      match exec (.loadkey op.isSome key.isSome) (keysPushed op key s) with
      | .next t => checkOutcome t fun u => .next (.success (), u)
      | .fault r => .fault r
      | .refused r => .refused r := by
  have hpushed : (key.getD []).foldl (fun s v => pushPortWrite .k v s)
      ((op.getD []).foldl (fun s v => pushPortWrite .op v s) s) = keysPushed op key s := by
    rw [foldl_push_op]
    exact foldl_push_k _ _
  have hrun : runScript (loadKeyScript op key) s = exec (.loadkey op.isSome key.isSome) (keysPushed op key s) := by
    rw [loadKeyScript, List.append_assoc, runScript_pushIfPresent_append, runScript_pushIfPresent_append, hpushed,
      runScript_issue (by cases op.isSome <;> cases key.isSome <;> decide)]
  exact afterScript_eq _ hrun

/-- The machine when `GENERATE_AV` has staged its operands (R87). -/
abbrev vectorInputsPushed (sqn rand : Option ByteString) (s : State) : State :=
  { s with block := { s.block with staging := { s.block.staging with
      rand := (rand.getD []).foldl pushByte s.block.staging.rand
      sqn := (sqn.getD []).foldl pushByte s.block.staging.sqn } } }

/-- `GENERATE_AV` is one `GENAV` on the staged operands, then the status check and the five reads (R87). -/
theorem generateAv_eq (sqn rand : Option ByteString) (s : State) :
    generateAv sqn rand s =
      match exec (.genav sqn.isSome rand.isSome) (vectorInputsPushed sqn rand s) with
      | .next t => checkOutcome t fun u => .next (.success (readVector u).1, (readVector u).2)
      | .fault r => .fault r
      | .refused r => .refused r := by
  have hpushed : (sqn.getD []).foldl (fun s v => pushPortWrite .sqn v s)
      ((rand.getD []).foldl (fun s v => pushPortWrite .rand v s) s) = vectorInputsPushed sqn rand s := by
    rw [foldl_push_rand]
    exact foldl_push_sqn _ _
  have hrun : runScript (generateAvScript sqn rand) s =
      exec (.genav sqn.isSome rand.isSome) (vectorInputsPushed sqn rand s) := by
    rw [generateAvScript, List.append_assoc, runScript_pushIfPresent_append, runScript_pushIfPresent_append, hpushed,
      runScript_issue (by cases sqn.isSome <;> cases rand.isSome <;> decide)]
  exact afterScript_eq _ hrun

/-- A field that is absent, or present and decodes (R90 step 1). -/
theorem decodeField_ok {f : ErrField} {x : Option (List Char)} {b : Option ByteString}
    (h : x.map decodeHex = b.map some) : decodeField f x = .ok b := by
  cases x <;> cases b <;> simp_all [decodeField]

/-- A field that is present and does not decode (R90 step 1, R93). -/
theorem decodeField_error {f : ErrField} {text : List Char} (h : decodeHex text = none) :
    decodeField f (some text) = .error (decodeFailure f text) := by simp [decodeField, h]

/-- What decoding a field can answer (R90 step 1). -/
theorem decodeField_cases (f : ErrField) (x : Option (List Char)) :
    (∃ b, decodeField f x = .ok b ∧ x.map decodeHex = b.map some) ∨
      ∃ text, x = some text ∧ decodeHex text = none ∧ decodeField f x = .error (decodeFailure f text) := by
  cases x with
  | none => exact .inl ⟨none, rfl, rfl⟩
  | some text =>
    cases h : decodeHex text with
    | none => exact .inr ⟨text, rfl, h, decodeField_error h⟩
    | some b => exact .inl ⟨some b, decodeField_ok (by simp [h]), by simp [h]⟩

/-- A request whose present fields all decode goes on to steps 2 to 4 (R90). -/
theorem serveRequest_decoded {q : Request} {op key sqn rand : Option ByteString} (s : State)
    (ho : q.op.map decodeHex = op.map some) (hk : q.secretKey.map decodeHex = key.map some)
    (hs : q.sqn.map decodeHex = sqn.map some) (hr : q.rand.map decodeHex = rand.map some) :
    serveRequest q s = serveDecoded op key sqn rand s := by
  simp only [serveRequest, decodeField_ok ho, decodeField_ok hk, decodeField_ok hs, decodeField_ok hr]

/-- A request whose KeyMaterial is refused ends there (R90 step 2). -/
theorem serveDecoded_key_failed {op key : Option ByteString} {s t : State} {e f : Byte}
    (sqn rand : Option ByteString) (h : loadKeyMaterial op key s = .next (.failure e f, t)) :
    serveDecoded op key sqn rand s = .next (blockFailure e f, t) := by simp only [serveDecoded, h]

/-- A request whose KeyMaterial is accepted is answered by its vector (R90 steps 3 and 4). -/
theorem serveDecoded_key_loaded {op key : Option ByteString} {s t : State} (sqn rand : Option ByteString)
    (h : loadKeyMaterial op key s = .next (.success (), t)) :
    serveDecoded op key sqn rand s =
      match generateAv sqn rand t with
      | .next (.failure e f, u) => .next (blockFailure e f, u)
      | .next (.success av, u) => .next (encodeVector av, u)
      | .fault r => .fault r
      | .refused r => .refused r := by
  simp only [serveDecoded, h]
  cases generateAv sqn rand t with
  | next a => obtain ⟨_ | _, _⟩ := a <;> rfl
  | fault r => rfl
  | refused r => rfl

end Sys2Proof.Machine
end

