-- ==== Sys2Proof/Laws/PerInstr.lean ====
section
/-! SUPPORT. The family `EncodesLegal`: a statement about each command as syntax, proved once per constructor. -/

namespace Sys2Proof.Laws.EncodesLegal

/-- The command's byte passes the field checks of R71, R72 and R76, and meets the command's own row of R78. -/
def Statement (i : Instr) : Prop :=
  (commandFields (encode i)).wellFormed = true ∧ (opcodeRow i).covers (encode i) = true

theorem clr : Statement .clr := by unfold Statement; decide

theorem loadkey (opp kp : Bool) : Statement (.loadkey opp kp) := by
  unfold Statement; cases opp <;> cases kp <;> decide

theorem opc : Statement .opc := by unfold Statement; decide

theorem f1 : Statement .f1 := by unfold Statement; decide

theorem f2 : Statement .f2 := by unfold Statement; decide

theorem f3 : Statement .f3 := by unfold Statement; decide

theorem f4 : Statement .f4 := by unfold Statement; decide

theorem f5 : Statement .f5 := by unfold Statement; decide

theorem genav (sqnp randp : Bool) : Statement (.genav sqnp randp) := by
  unfold Statement; cases sqnp <;> cases randp <;> decide

end Sys2Proof.Laws.EncodesLegal
end

