-- ==== Sys2Proof/Tests/Slice0.lean ====
section
/-! SUPPORT. Small tests. Expected values are those of `95_test_vectors.md` (named V1 to V18) under the test instantiation
T, or are written out from the rule named; then, for each statement with hypotheses, states and operands that meet them. -/

namespace Sys2Proof.Tests

open Sys2Proof Sys2Proof.Machine

/-! ### Helpers -/

/-- The bytes `first, first + 1, …` (16 of them). -/
def rising (first : Nat) : Bytes 16 := Vector.ofFn fun i => BitVec.ofNat 8 (first + i.val)

/-- The same byte 16 times. -/
def same16 (v : Byte) : Bytes 16 := Vector.ofFn fun _ => v

/-- `00 00 00 00 12 34`. -/
def sqn1234 : Bytes 6 := #v[0x00, 0x00, 0x00, 0x00, 0x12, 0x34]

/-- The KeyMaterial of "KMG" and of "KM0" in `95_test_vectors.md`. -/
def kmG : KeyMaterial := { k := rising 0x10, op := rising 0xA0, valid := true }
def km0 : KeyMaterial := { k := zeros 16, op := zeros 16, valid := true }

/-- Instantiation T, KeyMaterial `km`, RAND and SQN staged as given, no memo. -/
def holding (km : KeyMaterial) (rand : Staging 16) (sqn : Staging 6) : State :=
  { State.reset with
    inst := .testT
    block := { Block.reset with km := km, staging := { Block.reset.staging with rand := rand, sqn := sqn } } }

/-- KMG with RAND `F0 .. FF` and SQN `00 00 00 00 12 34` staged, their counters as given. -/
def general (randCount sqnCount : Byte) : State := holding kmG ⟨rising 0xF0, randCount⟩ ⟨sqn1234, sqnCount⟩

/-- OPc of KMG under T (V8 item b). -/
def opcG : Bytes 16 :=
  #v[0x11, 0x15, 0x15, 0x19, 0x19, 0x65, 0x65, 0x61, 0x61, 0x65, 0x65, 0x79, 0x79, 0x75, 0x75, 0x61]

/-- `general` with the memo filled. -/
def generalFilled (randCount sqnCount : Byte) : State :=
  { general randCount sqnCount with
    block := { (general randCount sqnCount).block with memo := { opc := opcG, valid := true } } }

/-- Reset with OP and K staged (KMG's), their counters as given. -/
def keysStaged (opCount kCount : Byte) : State :=
  { State.reset with
    block := { Block.reset with
      staging := { Block.reset.staging with op := ⟨rising 0xA0, opCount⟩, k := ⟨rising 0x10, kCount⟩ } } }

/-- A property of the block a command or step leaves; false if there is none. -/
def leaves (o : Host.Outcome State Fault Refusal) (p : State → Bool) : Bool :=
  match o with
  | .next t => p t
  | .fault _ => false
  | .refused _ => false

/-- A property of the answer to a request; false if there is none. -/
def answered (o : Host.Outcome (Response × State) Fault Refusal) (p : Response → Bool) : Bool :=
  match o with
  | .next (r, _) => p r
  | .fault _ => false
  | .refused _ => false

/-! ### Well-formedness: an ill-formed word for each check -/

theorem test_wellFormed_refuses_reserved_opcode :
    (CommandWord.mk 0#4 9#4).opcodeAssigned = false ∧ (CommandWord.mk 0#4 9#4).wellFormed = false := by decide

theorem test_wellFormed_refuses_formatZ_flags :
    (CommandWord.mk 1#4 2#4).formatZFlagsClear = false ∧ (CommandWord.mk 1#4 2#4).wellFormed = false := by decide

theorem test_wellFormed_refuses_formatP_flags :
    (CommandWord.mk 4#4 8#4).formatPFlagsClear = false ∧ (CommandWord.mk 4#4 8#4).wellFormed = false := by decide

/-! ### Decoding: every constructor from its byte, bit by bit (R78, R81) -/

theorem test_decode_clr : decode 0b00000000#8 = .instr .clr := by decide
theorem test_decode_loadkey_opp : decode 0b00010001#8 = .instr (.loadkey true false) := by decide
theorem test_decode_loadkey_kp : decode 0b00100001#8 = .instr (.loadkey false true) := by decide
theorem test_decode_opc : decode 0b00000010#8 = .instr .opc := by decide
theorem test_decode_f1 : decode 0b00000011#8 = .instr .f1 := by decide
theorem test_decode_f2 : decode 0b00000100#8 = .instr .f2 := by decide
theorem test_decode_f3 : decode 0b00000101#8 = .instr .f3 := by decide
theorem test_decode_f4 : decode 0b00000110#8 = .instr .f4 := by decide
theorem test_decode_f5 : decode 0b00000111#8 = .instr .f5 := by decide
theorem test_decode_genav_sqnp : decode 0b00011000#8 = .instr (.genav true false) := by decide
theorem test_decode_genav_randp : decode 0b00101000#8 = .instr (.genav false true) := by decide
/-- V3 and V15: reserved bytes, refused by name. -/
theorem test_decode_illegal :
    decode 0x0F = .illegal .reservedOpcode ∧ decode 0x12 = .illegal .reservedFlags ∧
    decode 0x48 = .illegal .reservedFlags ∧ decode 0x81 = .illegal .reservedFlags := by decide
theorem test_decodeTableWord : decodeTableWord 8 0x38 = some (.genav true true) ∧ decodeTableWord 8 0x41 = none := by
  decide

/-! ### Commands -/

/-- V4 items a and b: `CLR` keeps slot and memo; from reset it sets `OK` alone. -/
theorem test_clr : leaves (exec .clr (generalFilled 2 0)) (fun t => memRead t.block 0x01 == 0x07 &&
    memRead t.block 0x0E == 0x00) = true ∧
    leaves (exec .clr State.reset) (fun t => memRead t.block 0x01 == 0x04) = true := by decide

/-- V5 item c. -/
theorem test_loadkey_success : leaves (exec (.loadkey true true) (keysStaged 16 16)) (fun t =>
    decide (t.block.km = kmG) && memRead t.block 0x01 == 0x05 && memRead t.block 0x0C == 0x00) = true := by decide

/-- V6 items b, c, f, g and i: class and field. -/
theorem test_loadkey_failures :
    [(exec (.loadkey false false) State.reset, 0x01#8, 0x01#8), (exec (.loadkey true false) (keysStaged 16 0), 0x01, 0x02),
     (exec (.loadkey true true) (keysStaged 16 15), 0x03, 0x02), (exec (.loadkey true true) (keysStaged 17 16), 0x03, 0x01),
     (exec (.loadkey true false) (keysStaged 3 0), 0x01, 0x02)].all (fun (o, c, f) =>
      leaves o fun t => memRead t.block 0x01 == 0x08 && memRead t.block 0x02 == c && memRead t.block 0x03 == f) = true := by
  decide

/-- V8 item b. -/
theorem test_opc : leaves (exec .opc (general 0 0)) (fun t =>
    decide (t.block.results.opcOut = opcG) && memRead t.block 0x01 == 0x07 && memRead t.block 0x04 == 0x80) = true := by
  decide

/-- V8 item c. -/
theorem test_opc_without_key : leaves (exec .opc State.reset) (fun t => memRead t.block 0x01 == 0x08 &&
    memRead t.block 0x02 == 0x06 && memRead t.block 0x03 == 0x06) = true := by decide

/-- V9 item c. -/
theorem test_f1 : leaves (exec .f1 (general 16 6)) (fun t => memRead t.block 0x04 == 0x20 &&
    decide (t.block.results.maca = #v[0xC7, 0xA5, 0x9F, 0x7D, 0x27, 0x7D, 0x97, 0xAD])) = true := by decide

/-- V9 item e: RAND is checked before SQN. -/
theorem test_f1_both_short : leaves (exec .f1 (general 15 5)) (fun t => memRead t.block 0x01 == 0x09 &&
    memRead t.block 0x02 == 0x04 && memRead t.block 0x03 == 0x04) = true := by decide

/-- V10 item b. -/
theorem test_f2 : leaves (exec .f2 (general 16 6)) (fun t => memRead t.block 0x04 == 0x02 &&
    decide (t.block.results.xres = #v[0x99, 0x7D, 0x5D, 0x31, 0x11, 0x8D, 0xAD, 0xC9])) = true := by decide

/-- V10 item b. -/
theorem test_f3 : leaves (exec .f3 (general 16 0)) (fun t => memRead t.block 0x04 == 0x08 &&
    decide (t.block.results.ck = #v[0x9B, 0x69, 0x7B, 0x79, 0x4B, 0x21, 0x53, 0x49, 0x7B, 0x69, 0x9B, 0x89, 0x9B, 0xA1,
      0xB3, 0xD9])) = true := by decide

/-- V10 item b. -/
theorem test_f4 : leaves (exec .f4 (general 16 0)) (fun t => memRead t.block 0x04 == 0x10 &&
    decide (t.block.results.ik = #v[0x9A, 0x9B, 0x84, 0x8D, 0x8E, 0xFF, 0xF8, 0xC1, 0xC2, 0xC3, 0xCC, 0xD5, 0xD6, 0xC7,
      0xC0, 0xD9])) = true := by decide

/-- V10 items b and d. -/
theorem test_f5 : leaves (exec .f5 (general 16 0)) (fun t => memRead t.block 0x04 == 0x40 &&
    decide (t.block.results.ak = #v[0x9D, 0xB5, 0xA1, 0xD1, 0xC5, 0x95])) = true ∧
    leaves (exec .f5 (general 17 0)) (fun t => memRead t.block 0x02 == 0x04 && memRead t.block 0x03 == 0x04) = true := by
  decide

/-- V11 item e: AUTN, and that MAC-A, AK and OPc are not exposed. -/
theorem test_genav : leaves (exec (.genav true true) (general 16 6)) (fun t => memRead t.block 0x04 == 0x1F &&
    decide (t.block.results.randOut = rising 0xF0) &&
    decide (t.block.results.autn = #v[0x9D, 0xB5, 0xA1, 0xD1, 0xD7, 0xA1, 0x00, 0x00, 0xC7, 0xA5, 0x9F, 0x7D, 0x27, 0x7D,
      0x97, 0xAD]) &&
    decide (t.block.results.maca = zeros 8) && decide (t.block.results.ak = zeros 6)) = true := by decide

/-- V13 items a and d: a fixed source `A5*16`; staged operands ignored; a draw is used up before SQN is checked. -/
theorem test_genav_drawn :
    leaves (exec (.genav false false)
        { holding km0 ⟨rising 0xF0, 16⟩ ⟨sqn1234, 6⟩ with source := .fixed [same16 0xA5] }) (fun t =>
      decide (t.block.results.randOut = same16 0xA5) && t.draws == 1 && decide (t.source = .fixed []) &&
      decide (t.block.results.autn = #v[0x64, 0x51, 0x3E, 0x2B, 0x10, 0x05, 0x00, 0x00, 0x68, 0x29, 0xEA, 0xAB, 0x6C,
        0x2D, 0xEE, 0xAF])) = true ∧
    leaves (exec (.genav true false) { general 0 5 with source := .fixed [same16 0xA5] }) (fun t =>
      memRead t.block 0x01 == 0x09 && memRead t.block 0x03 == 0x03 && t.draws == 1) = true := by decide

/-! ### Transactions -/

/-- V15 item a: an illegal byte keeps slot and memo. -/
theorem test_illegal_byte : leaves (step ((generalFilled 2 0).withFetchWord 8 0x48)) (fun t =>
    memRead t.block 0x01 == 0x0B && memRead t.block 0x02 == 0x05 && memRead t.block 0x03 == 0x05 &&
    memRead t.block 0x0E == 0x00) = true := by decide

/-- V1 item b: seventeen pushes onto K; the last byte is dropped and counted. -/
theorem test_push_seventeen :
    ((List.range 17).map (fun n => BitVec.ofNat 8 (n + 1))).foldl pushByte (clearedOperand 16) =
      { buf := rising 0x01, cnt := 17 } := by decide

/-- V1 item c: the counter stays at 255. -/
theorem test_push_saturates : (pushByte (cap := 6) ⟨sqn1234, 255⟩ 0x77) = ⟨sqn1234, 255⟩ := by decide

/-- V2 item b: writes to read-only and unmapped addresses change nothing. -/
theorem test_ignored_writes : [0x01#8, 0x0C, 0x10, 0x30, 0x05, 0x90, 0xFF].all (fun a =>
    leaves (memWrite a 0xFF (generalFilled 2 0)) fun t => decide (t = generalFilled 2 0)) = true := by decide

/-- V18: the reset input discards the KeyMaterial and pending operands. -/
theorem test_reset : leaves (step { generalFilled 2 0 with script := [.reset] }) (fun t =>
    decide (t.block = Block.reset) && decide (t.inst = .testT)) = true := by decide

/-- R88 and R89: both cases on input, upper case on output; odd length and bad digits refused. -/
theorem test_hex : decodeHex "9dB5".toList = some [0x9D, 0xB5] ∧ encodeHex [0x9D, 0x05] = "9D05".toList ∧
    decodeHex "9DB".toList = none ∧ decodeHex "9G".toList = none := by decide

/-- V11 item a as a request: the success record of R91, written there. -/
theorem test_request_success :
    let zero16 := some "00000000000000000000000000000000".toList
    answered (serveRequest ⟨zero16, zero16, some "000000000000".toList, zero16⟩ { State.reset with inst := .testT })
      (fun r => decide (r = .success "00000000000000000000000000000000".toList "1021324354657687".toList
        "14599EE3206D000018314A637C95AEC7".toList "1235547B9EB9D8072A4D6C83A6C1E01F".toList
        "13477BAFDB17437FA3D71B4F7BA7D31F".toList)) = true := by decide

/-- R92 on source scenario S5 (neither op nor secretKey) and on a bad digit: class, field and `error`; the text is free. -/
theorem test_request_failure :
    answered (serveRequest ⟨none, none, none, none⟩ State.reset) (fun
      | .failure c f record => c == 0x01 && f == 0x01 && record.error
      | .success _ _ _ _ _ => false) = true ∧
    answered (serveRequest ⟨none, none, some "9G".toList, none⟩ State.reset) (fun
      | .failure c f record => c == 0x02 && f == 0x03 && record.error
      | .success _ _ _ _ _ => false) = true := by decide

/-! ### Witnesses: states and operands that meet the hypotheses of each statement -/

/-- A machine about to run the command byte `c`. -/
def about (c : Byte) (s : State) : State := { s with script := [.write 0x00 c] }

theorem general_coherent (n m : Byte) : MemoCoherent (paramsOf (general n m).inst) (general n m).block := by
  intro h; cases h

theorem generalFilled_coherent (n m : Byte) :
    MemoCoherent (paramsOf (generalFilled n m).inst) (generalFilled n m).block := by
  intro _; show opcG = deriveOpc toyParams kmG.k kmG.op; decide

theorem test_witness_StepRunsDecodedCommand :
    (State.reset.withFetchWord 8 0x38).script = .write 0x00 0x38 :: [] ∧ decode 0x38 = .instr (.genav true true) := by
  decide

theorem test_witness_IdleStepHoldsState : State.reset.script = [] := rfl

theorem test_witness_StepIssuesNextTransaction :
    ({ generalFilled 2 0 with script := [.reset, .read 0x40] } : State).script = .reset :: [.read 0x40] := rfl

/-- The boundary addresses of R51: ports, first and last byte of a register, the unmapped gaps. -/
theorem test_witness_ReadTableReturns :
    let b : Block := { Block.reset with results := { Block.reset.results with
      randOut := rising 0x20, autn := rising 0x40, ik := rising 0x60, opcOut := rising 0x80,
      ak := #v[0x78, 0x79, 0x7A, 0x7B, 0x7C, 0x7D] } }
    [0x20#8, 0x2F, 0x40, 0x4F, 0x60, 0x6F, 0x78, 0x7D, 0x80, 0x8F].all (fun a => memRead b a == a) = true ∧
    [0x00#8, 0x05, 0x07, 0x08, 0x0B, 0x10, 0x11, 0x12, 0x1F, 0x38, 0x3F, 0x7E, 0x7F, 0x90, 0xFF].all
      (fun a => memRead b a == 0x00) = true := by decide

theorem test_witness_WriteTableActs :
    [0x01#8, 0x07, 0x0C, 0xFF].all (fun a =>
      decide (a ≠ 0x00 ∧ a ≠ 0x08 ∧ a ≠ 0x09 ∧ a ≠ 0x0A ∧ a ≠ 0x0B)) = true := by decide

theorem test_witness_PushesFillStaging : (16 = 16 ∨ 16 = 6) ∧ (6 = 16 ∨ 6 = 6) := by decide

theorem test_witness_EncodeDecodeAgree : decode 0x21 = .instr (.loadkey false true) := by decide

theorem test_witness_IllegalBytesFail :
    9 ≤ ((0x09#8).extractLsb' 0 4).toNat ∧ 9 ≤ ((0xFF#8).extractLsb' 0 4).toNat ∧
    (0x10#8).extractLsb' 0 4 ∈ [0x0#4, 0x2#4, 0x3#4, 0x4#4, 0x5#4, 0x6#4, 0x7#4] ∧ (0x10#8).extractLsb' 4 4 ≠ 0#4 ∧
    (0xF7#8).extractLsb' 0 4 ∈ [0x0#4, 0x2#4, 0x3#4, 0x4#4, 0x5#4, 0x6#4, 0x7#4] ∧ (0xF7#8).extractLsb' 4 4 ≠ 0#4 ∧
    (0x41#8).extractLsb' 0 4 ∈ [0x1#4, 0x8#4] ∧ (0x41#8).extractLsb' 6 2 ≠ 0#2 ∧
    (0xF8#8).extractLsb' 0 4 ∈ [0x1#4, 0x8#4] ∧ (0xF8#8).extractLsb' 6 2 ≠ 0#2 := by decide

theorem test_witness_IllegalBytesFail_write : ∀ i, decode 0x41 ≠ .instr i := by
  intro i h
  rw [show decode 0x41 = .illegal .reservedFlags by decide] at h
  cases h

theorem test_witness_LoadkeyConstructsOrFails :
    ((keysStaged 16 16).block.staging.op.cnt = 16 ∧ (keysStaged 16 16).block.staging.k.cnt = 16) ∧
    (keysStaged 15 16).block.staging.op.cnt ≠ 16 ∧ (keysStaged 17 16).block.staging.op.cnt ≠ 16 ∧
    ((keysStaged 16 15).block.staging.op.cnt = 16 ∧ (keysStaged 16 15).block.staging.k.cnt ≠ 16) ∧
    ((keysStaged 16 17).block.staging.op.cnt = 16 ∧ (keysStaged 16 17).block.staging.k.cnt ≠ 16) := by decide

theorem test_witness_OpcExposesOpc :
    ((generalFilled 0 0).block.km.valid = true ∧
      MemoCoherent (paramsOf (generalFilled 0 0).inst) (generalFilled 0 0).block) ∧
    State.reset.block.km.valid = false := ⟨⟨rfl, generalFilled_coherent 0 0⟩, rfl⟩

theorem test_witness_F1WritesMacA :
    ((general 16 6).block.km.valid = true ∧ MemoCoherent (paramsOf (general 16 6).inst) (general 16 6).block ∧
      (general 16 6).block.staging.rand.cnt = 16 ∧ (general 16 6).block.staging.sqn.cnt = 6) ∧
    State.reset.block.km.valid = false ∧
    ((general 15 6).block.km.valid = true ∧ (general 15 6).block.staging.rand.cnt ≠ 16) ∧
    ((general 16 5).block.km.valid = true ∧ (general 16 5).block.staging.rand.cnt = 16 ∧
      (general 16 5).block.staging.sqn.cnt ≠ 6) ∧
    ((general 16 7).block.km.valid = true ∧ (general 16 7).block.staging.rand.cnt = 16 ∧
      (general 16 7).block.staging.sqn.cnt ≠ 6) :=
  ⟨⟨rfl, general_coherent 16 6, rfl, rfl⟩, rfl, by decide, by decide, by decide⟩

/-- Also for `F3WritesCk`, `F4WritesIk` and `F5WritesAk`, whose hypotheses are the same. -/
theorem test_witness_F2WritesXres :
    ((generalFilled 16 0).block.km.valid = true ∧
      MemoCoherent (paramsOf (generalFilled 16 0).inst) (generalFilled 16 0).block ∧
      (generalFilled 16 0).block.staging.rand.cnt = 16) ∧
    State.reset.block.km.valid = false ∧
    ((general 17 0).block.km.valid = true ∧ (general 17 0).block.staging.rand.cnt ≠ 16) :=
  ⟨⟨rfl, generalFilled_coherent 16 0, rfl⟩, rfl, by decide⟩

theorem test_witness_F3WritesCk :
    (general 16 0).block.km.valid = true ∧ MemoCoherent (paramsOf (general 16 0).inst) (general 16 0).block ∧
    (general 16 0).block.staging.rand.cnt = 16 ∧ (general 0 0).block.staging.rand.cnt ≠ 16 :=
  ⟨rfl, general_coherent 16 0, rfl, by decide⟩

theorem test_witness_F4WritesIk :
    (general 16 0).block.km.valid = true ∧ MemoCoherent (paramsOf (general 16 0).inst) (general 16 0).block ∧
    (general 16 0).block.staging.rand.cnt = 16 ∧ (general 15 0).block.staging.rand.cnt ≠ 16 :=
  ⟨rfl, general_coherent 16 0, rfl, by decide⟩

theorem test_witness_F5WritesAk :
    (general 16 0).block.km.valid = true ∧ MemoCoherent (paramsOf (general 16 0).inst) (general 16 0).block ∧
    (general 16 0).block.staging.rand.cnt = 16 ∧ (general 255 0).block.staging.rand.cnt ≠ 16 :=
  ⟨rfl, general_coherent 16 0, rfl, by decide⟩

/-- SQN absent with a short SQN staged, and SQN present. -/
theorem test_witness_GenavWithSuppliedRand :
    ((general 16 5).block.km.valid = true ∧ MemoCoherent (paramsOf (general 16 5).inst) (general 16 5).block ∧
      (general 16 5).block.staging.rand.cnt = 16 ∧ (false = true → (general 16 5).block.staging.sqn.cnt = 6)) ∧
    ((general 16 6).block.km.valid = true ∧ MemoCoherent (paramsOf (general 16 6).inst) (general 16 6).block ∧
      (general 16 6).block.staging.rand.cnt = 16 ∧ (true = true → (general 16 6).block.staging.sqn.cnt = 6)) :=
  ⟨⟨rfl, general_coherent 16 5, rfl, nofun⟩, rfl, general_coherent 16 6, rfl, fun _ => rfl⟩

/-- A free source and a fixed one. -/
theorem test_witness_GenavWithDrawnRand :
    ((general 0 6).block.km.valid = true ∧ MemoCoherent (paramsOf (general 0 6).inst) (general 0 6).block ∧
      sourceAnswer (general 0 6).draws (general 0 6).source = some (Config.rngAnswer 0, .free) ∧
      (true = true → (general 0 6).block.staging.sqn.cnt = 6)) ∧
    sourceAnswer 3 (.fixed [same16 0xA5]) = some (same16 0xA5, .fixed []) :=
  ⟨⟨rfl, general_coherent 0 6, rfl, fun _ => rfl⟩, rfl⟩

theorem test_witness_GenavFailsInOrder :
    State.reset.block.km.valid = false ∧
    ((general 15 6).block.km.valid = true ∧ (general 15 6).block.staging.rand.cnt ≠ 16) ∧
    ((general 16 7).block.km.valid = true ∧ (general 16 7).block.staging.rand.cnt = 16 ∧
      (general 16 7).block.staging.sqn.cnt ≠ 6) ∧
    ((general 0 5).block.km.valid = true ∧
      sourceAnswer (general 0 5).draws (general 0 5).source = some (Config.rngAnswer 0, .free) ∧
      (general 0 5).block.staging.sqn.cnt ≠ 6) := ⟨rfl, by decide, by decide, rfl, rfl, by decide⟩

/-- No source, and a fixed one that is used up. -/
theorem test_witness_OnlyASilentSourceStops :
    ((general 0 6).block.km.valid = true ∧ sourceAnswer 0 .silent = none ∧ sourceAnswer 0 (.fixed []) = none) ∧
    exec (.genav true false) { general 0 6 with source := .silent } = .fault .randomSourceSilent :=
  ⟨⟨rfl, rfl, rfl⟩, rfl⟩

theorem test_witness_MessagesAreSeparated : rising 0xF0 ≠ same16 0x00 := by decide

theorem test_witness_AuthVectorVerifies :
    MemoCoherent (paramsOf (generalFilled 16 6).inst) (generalFilled 16 6).block ∧
    ∃ t, exec (.genav true true) (generalFilled 16 6) = .next t ∧ t.block.status.ok = true :=
  ⟨generalFilled_coherent 16 6, _, rfl, rfl⟩

/-- RAND staged with the memo filled, and the same RAND drawn with the memo empty (V13 item c). -/
theorem test_witness_GenavIsDeterministic :
    let s := generalFilled 16 6
    let s' := { general 0 6 with source := .fixed [rising 0xF0] }
    s.inst = s'.inst ∧ s.block.km = s'.block.km ∧ MemoCoherent (paramsOf s.inst) s.block ∧
    MemoCoherent (paramsOf s'.inst) s'.block ∧
    ∃ t t', exec (.genav true true) s = .next t ∧ exec (.genav true false) s' = .next t' ∧ t.block.status.ok = true ∧
      t'.block.status.ok = true ∧ t.block.results.randOut = t'.block.results.randOut ∧
      (if true then s.block.staging.sqn.buf else zeros 6) = (if true then s'.block.staging.sqn.buf else zeros 6) :=
  ⟨rfl, rfl, generalFilled_coherent 16 6, general_coherent 0 6, _, _, rfl, rfl, rfl, rfl, rfl, rfl⟩

theorem test_witness_MemoIsUnobservable :
    MemoCoherent (paramsOf (generalFilled 16 6).inst) (generalFilled 16 6).block ∧
    (generalFilled 16 6).block.memo.valid = true ∧ ∃ t, exec .f1 (generalFilled 16 6) = .next t :=
  ⟨generalFilled_coherent 16 6, rfl, _, rfl⟩

theorem test_witness_KeyCommandsFillMemo : needsKeyMaterial .f2 = true ∧
    (∃ t, exec .f2 (generalFilled 16 0) = .next t ∧ t.block.status.ok = true) ∧
    (generalFilled 16 0).block.memo.valid = true ∧
    (∃ t, exec .f2 (general 16 0) = .next t ∧ t.block.status.ok = true) ∧
    (general 16 0).block.memo.valid = false := ⟨rfl, ⟨_, rfl, rfl⟩, rfl, ⟨_, rfl, rfl⟩, rfl⟩

theorem test_witness_KeyCommandsNeedKeyMaterial :
    [Instr.opc, .f1, .f2, .f3, .f4, .f5, .genav true false].all needsKeyMaterial = true ∧
    State.reset.block.km.valid = false := by decide

/-- An illegal byte and a command that fails a check. -/
theorem test_witness_FailureChangesOnlyRecord :
    (∃ t, execCommand 0x48 (generalFilled 2 0) = .next t ∧ t.block.status.err = true) ∧
    ∃ t, execCommand 0x03 (general 16 5) = .next t ∧ t.block.status.err = true := ⟨⟨_, rfl, rfl⟩, _, rfl, rfl⟩

theorem test_witness_CommandsSucceedOrFail :
    (∃ t, execCommand 0x02 (general 0 0) = .next t) ∧ ∃ t, execCommand 0xFF State.reset = .next t :=
  ⟨⟨_, rfl⟩, _, rfl⟩

theorem test_witness_RvalidNamesResults :
    (∃ t, exec .f5 (general 16 0) = .next t ∧ t.block.status.err = false) ∧
    ∃ t, exec .f5 State.reset = .next t ∧ t.block.status.err = true := ⟨⟨_, rfl, rfl⟩, _, rfl, rfl⟩

theorem test_witness_EveryCommandConsumesStaging :
    (∃ t, transact (.write 0x00 0x04) (general 16 6) = .next t) ∧
    ∃ t, transact (.write 0x00 0xF7) (general 16 6) = .next t := ⟨⟨_, rfl⟩, _, rfl⟩

theorem zeros16_byte : ∀ i : Fin 16, (zeros 16)[i] = 0x00 := by decide

theorem generalFilled_inv (n m : Byte) (hn : n.toNat ≥ 16) (hm : m.toNat ≥ 6) :
    BlockInv (paramsOf (generalFilled n m).inst) (generalFilled n m).block where
  memo_needs_key := fun _ => rfl
  memo_coherent := generalFilled_coherent n m
  memo_empty := nofun
  key_empty := nofun
  not_both := nofun
  err_iff_code := ⟨nofun, fun h => absurd rfl h⟩
  err_no_result := nofun
  results_clean := fun r _ i => resultByte_cleared r i
  staging_clean := by
    refine ⟨fun i _ => zeros16_byte i, fun i _ => zeros16_byte i, fun i h => ?_, fun i h => ?_⟩
    · have h' : n.toNat ≤ i.val := h
      have := i.isLt
      omega
    · have h' : m.toNat ≤ i.val := h
      have := i.isLt
      omega

/-- A `GENAV` from a state that meets every clause, with a filled memo and both operands staged. -/
theorem test_witness_InvariantsKept :
    BlockInv (paramsOf (about 0x38 (generalFilled 16 6)).inst) (about 0x38 (generalFilled 16 6)).block ∧
    ∃ t, step (about 0x38 (generalFilled 16 6)) = .next t :=
  ⟨generalFilled_inv 16 6 (by decide) (by decide), _, rfl⟩

theorem test_witness_LegalValuesKept : LegalValues (about 0x38 (generalFilled 16 6)).block ∧
    ∃ t, step (about 0x38 (generalFilled 16 6)) = .next t :=
  ⟨⟨by decide, by decide, by decide⟩, _, rfl⟩

/-- A `LOADKEY` that changes the slot, and a reset that empties it. -/
theorem test_witness_KeyMaterialIsImmutable :
    (∃ t, transact (.write 0x00 0x31) (keysStaged 16 16) = .next t ∧ t.block.km ≠ (keysStaged 16 16).block.km) ∧
    ∃ t, transact .reset (general 0 0) = .next t ∧ (general 0 0).block.km.valid = true ∧
      t.block.km.valid = false := ⟨⟨_, rfl, by decide⟩, _, rfl, rfl, rfl⟩

/-- The memo filled by a command, and emptied by reset and by `LOADKEY`. -/
theorem test_witness_MemoChangesOnlyAsStated :
    (∃ t, transact (.write 0x00 0x02) (general 0 0) = .next t ∧ t.block.memo ≠ (general 0 0).block.memo) ∧
    (∃ t, transact .reset (generalFilled 0 0) = .next t ∧ t.block.memo ≠ (generalFilled 0 0).block.memo) ∧
    let s := { keysStaged 16 16 with
      block := { (keysStaged 16 16).block with km := kmG, memo := { opc := opcG, valid := true } } }
    ∃ t, transact (.write 0x00 0x31) s = .next t ∧ t.block.memo ≠ s.block.memo :=
  ⟨⟨_, rfl, by decide⟩, ⟨_, rfl, by decide⟩, _, rfl, by decide⟩

/-- A push (V1 item e) and a read. -/
theorem test_witness_ResultsStandUntilCommand :
    (∃ t, transact (.write 0x0A 0x77) (generalFilled 2 0) = .next t) ∧
    (∀ c : Byte, Transaction.write 0x0A 0x77 ≠ .write 0x00 c) ∧
    (∃ t, transact (.read 0x40) (generalFilled 2 0) = .next t) ∧ ∀ c : Byte, Transaction.read 0x40 ≠ .write 0x00 c :=
  ⟨⟨_, rfl⟩, by decide, ⟨_, rfl⟩, nofun⟩

/-- Two blocks with different keys, memos and staged bytes, and the same public part. -/
theorem test_witness_SecretsHaveNoReadPath :
    SamePublic (generalFilled 16 6).block
      { (generalFilled 16 6).block with
        km := km0
        memo := { opc := zeros 16, valid := true }
        staging := { (generalFilled 16 6).block.staging with rand := ⟨zeros 16, 16⟩, sqn := ⟨zeros 6, 6⟩ } } :=
  ⟨fun x => by cases x <;> rfl, rfl, rfl, rfl, rfl⟩

theorem test_witness_CommandsTouchOnlyBlockAndDraw :
    (∃ t, exec (.genav true false) (general 0 6) = .next t) ∧ ∃ t, exec .clr State.reset = .next t :=
  ⟨⟨_, rfl⟩, _, rfl⟩

/-- Cleared staging, and operand lengths on each side of 16. -/
theorem test_witness_LoadKeyMaterialAnswers : State.reset.block.staging = clearedStaging ∧
    (rising 0xA0).toList.length = 16 ∧ (0x00#8 :: (rising 0xA0).toList).length ≠ 16 ∧ ([] : ByteString).length ≠ 16 := by
  decide

theorem test_witness_GenerateAvReturnsVector :
    let s := holding kmG (clearedOperand 16) (clearedOperand 6)
    s.block.staging = clearedStaging ∧ s.block.km.valid = true ∧ MemoCoherent (paramsOf s.inst) s.block :=
  ⟨rfl, rfl, nofun⟩

/-- Each field malformed in turn, the ones before it present and well formed. -/
theorem test_witness_MalformedFieldStopsRequest :
    decodeHex "9G".toList = none ∧ (decodeHex "AB".toList).isSome ∧
    let good := some "AB".toList
    let bad := some "9G".toList
    (Request.mk bad none none none).op = some "9G".toList ∧
    (∀ x, (Request.mk good bad none none).op = some x → (decodeHex x).isSome) ∧
    (Request.mk good bad none none).secretKey = some "9G".toList ∧
    (∀ x, (Request.mk good good good bad).sqn = some x → (decodeHex x).isSome) ∧
    (Request.mk good good good bad).rand = some "9G".toList := by
  refine ⟨by decide, by decide, rfl, fun x h => ?_, rfl, fun x h => ?_, rfl⟩ <;> (cases h; decide)

/-- The clauses in turn: fields that decode to what is named, lengths on each side of 16 and 6, RAND present and absent. -/
theorem test_witness_RequestFailsWithRecord :
    let long := encodeHex (rising 0xA0).toList
    let q : Request := { op := some long, secretKey := some long, sqn := some "12".toList, rand := none }
    State.reset.block.staging = clearedStaging ∧
    (Request.mk none none none none).op.map decodeHex = (none : Option ByteString).map some ∧
    q.op.map decodeHex = (some (rising 0xA0).toList).map some ∧
    q.secretKey.map decodeHex = (some (rising 0xA0).toList).map some ∧
    q.sqn.map decodeHex = (some [0x12#8]).map some ∧ q.rand.map decodeHex = (none : Option ByteString).map some ∧
    (some [0x12#8] : Option ByteString) ≠ none ∧ ([] : ByteString).length ≠ 16 ∧
    (0x00#8 :: (rising 0xA0).toList).length ≠ 16 ∧ (rising 0xA0).toList.length = 16 ∧ [0x12#8].length ≠ 6 ∧
    ∃ a, sourceAnswer State.reset.draws State.reset.source = some a := by
  refine ⟨by decide, rfl, by decide, by decide, by decide, rfl, nofun, by decide, by decide, by decide, by decide, _, rfl⟩

/-- SQN present and RAND present; SQN absent and RAND drawn. -/
theorem test_witness_RequestReturnsVector :
    let long := encodeHex (rising 0xA0).toList
    let q : Request := { op := some long, secretKey := some long, sqn := some (encodeHex sqn1234.toList), rand := some long }
    State.reset.block.staging = clearedStaging ∧
    q.op.map decodeHex = some (some (rising 0xA0).toList) ∧
    q.secretKey.map decodeHex = some (some (rising 0xA0).toList) ∧
    q.sqn.map decodeHex = (some sqn1234).map (fun v => some v.toList) ∧
    q.rand.map decodeHex = some (some (rising 0xA0).toList) ∧
    ({ q with sqn := none, rand := none } : Request).sqn.map decodeHex =
      (none : Option (Bytes 6)).map (fun v => some v.toList) ∧
    ({ q with sqn := none, rand := none } : Request).rand = none ∧
    sourceAnswer State.reset.draws State.reset.source = some (Config.rngAnswer 0, .free) := by
  refine ⟨by decide, by decide, by decide, by decide, by decide, rfl, rfl, rfl⟩

/-- Every end occurs: a success (`test_request_success`), both kinds of failure (`test_request_failure`), and a wait. -/
theorem test_witness_RequestAnswersOneRecord :
    let long := some (encodeHex (rising 0xA0).toList)
    (match serveRequest ⟨long, long, none, none⟩ { State.reset with source := .silent } with
      | .fault r => decide (r = .randomSourceSilent)
      | .next _ => false
      | .refused _ => false) = true := by decide

end Sys2Proof.Tests
end

section
/-! PROOF. The outcome of a command (R17, R24, R25, R175) and the step as the next host transaction (R6, R59, R80). -/

namespace Sys2Proof.Machine

/-! ### The status a completed command leaves -/

/-- No failure class has code 0 (R174). -/
theorem errCode_ne_zero (c : ErrClass) : errCode c ≠ 0x00 := by cases c <;> decide

/-- R17 of every command byte: a completed command leaves the status of a success, or that of a failure whose pair of codes
is one of R175. -/
theorem execCommand_status {c : Byte} {s t : State} (h : execCommand c s = .next t) :
    t.block.status = successStatus ∨
      ∃ e f, (errCode e, errField f) ∈ errorPairs ∧ t.block.status = failureStatus e f := by
  rw [execCommand] at h
  cases hd : decode c with
  | illegal why =>
    simp only [hd, illegal_effect] at h
    cases h
    exact .inr ⟨.illegalCommand, .cmd, by decide, rfl⟩
  | instr i =>
    simp only [hd] at h
    cases exec_next_effect h with
    | failed e f _ _ pair _ => exact .inr ⟨e, f, pair, rfl⟩
    | cleared | loaded | computed => exact .inl rfl

/-- Settles O36, from the two statuses a completed command can leave. -/
theorem commandsSucceedOrFail : Obligations.CommandsSucceedOrFail := by
  unfold Obligations.CommandsSucceedOrFail
  intro c s t h
  obtain hs | ⟨e, f, hpair, hs⟩ := execCommand_status h <;> rw [hs]
  · exact ⟨rfl, by decide, by decide⟩
  · exact ⟨rfl, iff_of_true rfl (errCode_ne_zero e), hpair⟩

/-! ### The step -/

/-- A read hands the host the byte of `memRead` and changes nothing else (R51, R80). -/
theorem transact_read (a : Byte) (s : State) :
    transact (.read a) s = .next { s with returned := s.returned ++ [memRead s.block a] } := rfl

/-- Settles O3: the step takes the first pending transaction, and a read is one. -/
theorem stepIssuesNextTransaction : Obligations.StepIssuesNextTransaction := by
  unfold Obligations.StepIssuesNextTransaction
  exact ⟨fun _ _ _ => step_eq_transact, fun s a => transact_read a s⟩

end Sys2Proof.Machine
end

section
/-! PROOF. The state (10_state.md): what a transaction does to the block, said once (`transact_effect`), and from it the
invariants (R36), the legal values (R24, R26, R175) and the life of the memo (R30); pushes in closed form (R27), the reset
values (R37) and the read table's independence of the secrets (R38). -/

namespace Sys2Proof.Machine

/-! ### What a transaction does to the block -/

/-- A byte that decodes to a command is that command's byte (R78, R81). -/
theorem encode_of_decode {c : Byte} {i : Instr} (h : decode c = .instr i) : encode i = c := by
  have key : ∀ c : Byte, ∀ i ∈ (decode c).instr?, encode i = c := by decide
  exact key c i (by rw [h]; rfl)

/-- The ways transaction `tx` can change block `b` with the functions of `P` plugged in. -/
inductive BlockEffect (P : Params) (tx : Transaction) (b : Block) : Block → Prop where
  /-- A read, or a write that is ignored (R51, R57). -/
  | held : BlockEffect P tx b b
  /-- The reset input (R200). -/
  | reset (isReset : tx = .reset) : BlockEffect P tx b Block.reset
  /-- A push (R27). -/
  | pushed (x : Operand) (v : Byte) : BlockEffect P tx b { b with staging := pushOperand x v b.staging }
  /-- A command that fails, or an illegal byte (R77, R181). -/
  | failed (e : ErrClass) (f : ErrField) (pair : (errCode e, errField f) ∈ errorPairs) :
      BlockEffect P tx b (blockAfterFailure e f b)
  /-- `CLR` (R101). -/
  | cleared : BlockEffect P tx b (blockAfterSuccess b.km b.memo clearedResults)
  /-- A successful `LOADKEY` (R106, R109). -/
  | loaded (isLoad : tx = .write 0x00 0x31) :
      BlockEffect P tx b (blockAfterSuccess { k := b.staging.k.buf, op := b.staging.op.buf, valid := true }
        { opc := zeros 16, valid := false } clearedResults)
  /-- A successful command that derives OPc (R119). -/
  | computed (i : Instr) (r : Results) (isCmd : tx = .write 0x00 (encode i)) (needs : needsKeyMaterial i = true)
      (key : b.km.valid = true) (rvalid : r.rvalid = rvalidOf (filledRegs i)) (clean : ∀ reg, ResultClean reg r) :
      BlockEffect P tx b (blockAfterSuccess b.km (ensureOpc P b.km b.memo) r)

/-- What a completed command does to the block, as the effect of the write that started it. -/
theorem exec_blockEffect {i : Instr} {s t : State} (h : exec i s = .next t) :
    BlockEffect (paramsOf s.inst) (.write 0x00 (encode i)) s.block t.block ∧ t.inst = s.inst := by
  cases exec_next_effect h with
  | failed e f _ _ pair _ => exact ⟨.failed e f pair, rfl⟩
  | cleared _ => exact ⟨.cleared, rfl⟩
  | loaded isLoad => subst isLoad; exact ⟨.loaded rfl, rfl⟩
  | computed r _ _ needs key rvalid clean _ => exact ⟨.computed i r rfl needs key rvalid clean, rfl⟩

/-- Everything a transaction can do to the block; the plugged functions stay (R122, R201). -/
theorem transact_effect {tx : Transaction} {s t : State} (h : transact tx s = .next t) :
    BlockEffect (paramsOf s.inst) tx s.block t.block ∧ t.inst = s.inst := by
  obtain ⟨a, -, rfl⟩ | ⟨rfl, rfl⟩ | ⟨c, i, rfl, hd, hx⟩ | ⟨c, -, -, rfl⟩ | ⟨x, v, -, rfl⟩ | ⟨a, v, -, -, rfl⟩ :=
    transact_cases h
  · exact ⟨.held, rfl⟩
  · exact ⟨.reset rfl, rfl⟩
  · rw [← encode_of_decode hd]; exact exec_blockEffect hx
  · exact ⟨.failed .illegalCommand .cmd (by decide), rfl⟩
  · exact ⟨.pushed x v, rfl⟩
  · exact ⟨.held, rfl⟩

/-- A property of the block that every effect keeps is kept by every step; it may speak of the plugged functions. -/
theorem step_keeps {I : Params → Block → Prop}
    (keeps : ∀ {P : Params} {tx : Transaction} {b c : Block}, BlockEffect P tx b c → I P b → I P c) {s t : State}
    (hs : I (paramsOf s.inst) s.block) (h : step s = .next t) : I (paramsOf t.inst) t.block := by
  obtain ⟨-, rfl⟩ | ⟨tx, rest, -, htx⟩ := step_next_cases h
  · exact hs
  · obtain ⟨heff, hinst⟩ := transact_effect htx
    rw [hinst]; exact keeps heff hs

/-! ### The invariants of R36 -/

/-- `ClearStaging()` leaves clause (f) for all four operands (R100). -/
theorem stagingClean_clearedStaging :
    StagingClean clearedStaging.k ∧ StagingClean clearedStaging.op ∧ StagingClean clearedStaging.rand ∧
      StagingClean clearedStaging.sqn :=
  ⟨stagingClean_cleared 16, stagingClean_cleared 16, stagingClean_cleared 16, stagingClean_cleared 6⟩

/-- The block after a success meets R36 when its slot and memo fit together and its results are clean. -/
theorem blockInv_afterSuccess {P : Params} {km : KeyMaterial} {m : Memo} {r : Results}
    (needs : m.valid = true → km.valid = true) (coherent : m.valid = true → m.opc = deriveOpc P km.k km.op)
    (memoEmpty : m.valid = false → m.opc = zeros 16) (keyEmpty : km.valid = false → km.k = zeros 16 ∧ km.op = zeros 16)
    (clean : ∀ reg, ResultClean reg r) : BlockInv P (blockAfterSuccess km m r) where
  memo_needs_key := needs
  memo_coherent := coherent
  memo_empty := memoEmpty
  key_empty := keyEmpty
  not_both := nofun
  err_iff_code := ⟨nofun, fun h => absurd rfl h⟩
  err_no_result := nofun
  results_clean := clean
  staging_clean := stagingClean_clearedStaging

/-- A failure keeps R36: slot and memo stay, and the record has a code that is not 0 (R174, R181). -/
theorem blockInv_afterFailure {P : Params} {b : Block} (hb : BlockInv P b) (e : ErrClass) (f : ErrField) :
    BlockInv P (blockAfterFailure e f b) where
  memo_needs_key := hb.memo_needs_key
  memo_coherent := hb.memo_coherent
  memo_empty := hb.memo_empty
  key_empty := hb.key_empty
  not_both := nofun
  err_iff_code := iff_of_true rfl (errCode_ne_zero e)
  err_no_result := fun _ => rfl
  results_clean := resultClean_cleared
  staging_clean := stagingClean_clearedStaging

/-- A push keeps R36: it touches one operand's staging alone, and clause (f) there. -/
theorem blockInv_push {P : Params} {b : Block} (hb : BlockInv P b) (x : Operand) (v : Byte) :
    BlockInv P { b with staging := pushOperand x v b.staging } := by
  obtain ⟨hk, hop, hrand, hsqn⟩ := hb.staging_clean
  refine { hb with staging_clean := ?_ }
  cases x with
  | k => exact ⟨stagingClean_pushByte (by decide) hk v, hop, hrand, hsqn⟩
  | op => exact ⟨hk, stagingClean_pushByte (by decide) hop v, hrand, hsqn⟩
  | rand => exact ⟨hk, hop, stagingClean_pushByte (by decide) hrand v, hsqn⟩
  | sqn => exact ⟨hk, hop, hrand, stagingClean_pushByte (by decide) hsqn v⟩

/-- Every value of R37 meets R36. -/
theorem blockInv_reset (P : Params) : BlockInv P Block.reset where
  memo_needs_key := nofun
  memo_coherent := nofun
  memo_empty := fun _ => rfl
  key_empty := fun _ => ⟨rfl, rfl⟩
  not_both := nofun
  err_iff_code := ⟨nofun, fun h => absurd rfl h⟩
  err_no_result := nofun
  results_clean := resultClean_cleared
  staging_clean := stagingClean_clearedStaging

/-- Every effect of a transaction keeps R36 (a) to (f). -/
theorem BlockEffect.keeps_inv {P : Params} {tx : Transaction} {b c : Block} (h : BlockEffect P tx b c)
    (hb : BlockInv P b) : BlockInv P c := by
  cases h with
  | held => exact hb
  | reset _ => exact blockInv_reset P
  | pushed x v => exact blockInv_push hb x v
  | failed e f _ => exact blockInv_afterFailure hb e f
  | cleared =>
    exact blockInv_afterSuccess hb.memo_needs_key hb.memo_coherent hb.memo_empty hb.key_empty resultClean_cleared
  | loaded _ => exact blockInv_afterSuccess nofun nofun (fun _ => rfl) nofun resultClean_cleared
  | computed i r _ _ key _ clean =>
    rw [ensureOpc_of_coherent hb.memo_coherent]
    exact blockInv_afterSuccess (fun _ => key) (fun _ => rfl) nofun hb.key_empty clean

/-- Settles O39: every step is an effect on the block, and every effect keeps R36. -/
theorem invariantsKept : Obligations.InvariantsKept := by
  unfold Obligations.InvariantsKept
  exact fun _ _ => step_keeps (I := BlockInv) BlockEffect.keeps_inv

/-! ### The legal values of R24, R26 and R175 -/

/-- Bits 7:4 of `STATUS` read as 0 in every block (R24). -/
theorem statusByte_reserved (b : Block) : (statusByte b).extractLsb' 4 4 = 0#4 := by
  rw [statusByte_eq]
  cases b.status.err <;> cases b.status.ok <;> cases b.memo.valid <;> cases b.km.valid <;> rfl

/-- The reset block has legal values (R37). -/
theorem legalValues_reset : LegalValues Block.reset := ⟨by decide, by decide, statusByte_reserved _⟩

/-- A success with a legal `RVALID` leaves legal values: its error pair is (0, 0). -/
theorem legalValues_afterSuccess (km : KeyMaterial) (m : Memo) {r : Results} (h : r.rvalid ∈ rvalidValues) :
    LegalValues (blockAfterSuccess km m r) := ⟨h, List.mem_cons_self, statusByte_reserved _⟩

/-- Every effect of a transaction keeps the legal values. -/
theorem BlockEffect.keeps_legal {P : Params} {tx : Transaction} {b c : Block} (h : BlockEffect P tx b c)
    (hb : LegalValues b) : LegalValues c := by
  cases h with
  | held => exact hb
  | reset _ => exact legalValues_reset
  | pushed x v => exact ⟨hb.rvalid, hb.errors, statusByte_reserved _⟩
  | failed e f pair => exact ⟨List.mem_cons_self, pair, statusByte_reserved _⟩
  | cleared => exact legalValues_afterSuccess _ _ List.mem_cons_self
  | loaded _ => exact legalValues_afterSuccess _ _ List.mem_cons_self
  | computed i r _ _ _ rvalid _ => exact legalValues_afterSuccess _ _ (rvalid ▸ rvalidOf_filledRegs_mem i)

/-- Settles O41: every step is an effect on the block, and every effect keeps the legal values. -/
theorem legalValuesKept : Obligations.LegalValuesKept := by
  unfold Obligations.LegalValuesKept
  exact fun _ _ => step_keeps (I := fun _ => LegalValues) BlockEffect.keeps_legal

/-- Settles O40. -/
theorem invariantsAtReset : Obligations.InvariantsAtReset := by
  unfold Obligations.InvariantsAtReset
  exact ⟨blockInv_reset, legalValues_reset⟩

/-! ### The memo and `RVALID` -/

/-- Settles O43: of the effects, only reset, a loaded KeyMaterial and a derivation from an empty memo change the memo. -/
theorem memoChangesOnlyAsStated : Obligations.MemoChangesOnlyAsStated := by
  unfold Obligations.MemoChangesOnlyAsStated
  intro tx s t h hne
  obtain ⟨heff, -⟩ := transact_effect h
  generalize t.block = c at heff hne ⊢
  cases heff with
  | held | pushed | failed | cleared => exact absurd rfl hne
  | reset isReset => exact .inl ⟨isReset, rfl⟩
  | loaded isLoad => exact .inr (.inl ⟨isLoad, rfl, rfl⟩)
  | computed i r isCmd needs _ _ _ =>
    obtain ⟨-, hsame⟩ | ⟨hempty, hfilled⟩ := ensureOpc_cases (paramsOf s.inst) s.block.km s.block.memo
    · exact absurd hsame hne
    · exact .inr (.inr ⟨i, isCmd, needs, rfl, hempty, hfilled⟩)

/-- Settles O37: a failure leaves the cleared results, a success the bits of the registers the command fills. -/
theorem rvalidNamesResults : Obligations.RvalidNamesResults := by
  unfold Obligations.RvalidNamesResults
  intro i s t h
  cases exec_next_effect h with
  | failed => rfl
  | cleared isClr => subst isClr; rfl
  | loaded isLoad => subst isLoad; rfl
  | computed r _ _ _ _ rvalid _ _ => cases i <;> exact rvalid

/-! ### Pushes in closed form -/

/-- R27 from a cleared buffer, by induction on the last byte pushed: a capacity of at most 255 is never met by a counter
that has stopped counting. -/
theorem foldl_pushByte_cleared {cap : Nat} (hcap : cap ≤ 255) (vs : ByteString) :
    (vs.foldl pushByte (clearedOperand cap)).cnt.toNat = min vs.length 255 ∧
      ∀ i : Fin cap, (vs.foldl pushByte (clearedOperand cap)).buf[i] = vs.getD i.val 0x00 := by
  induction vs using List.reverseRecOn with
  | nil => exact ⟨rfl, fun i => getElem_zeros cap i.val i.isLt⟩
  | append_singleton vs v ih =>
    obtain ⟨hcnt, hbuf⟩ := ih
    rw [List.foldl_concat]
    refine ⟨?_, fun i => ?_⟩
    · calc (pushByte _ v).cnt.toNat = min ((vs.foldl pushByte (clearedOperand cap)).cnt.toNat + 1) 255 :=
            countPush_toNat _
        _ = min (vs ++ [v]).length 255 := by rw [hcnt, List.length_append, List.length_singleton]; omega
    · have hi := i.isLt
      have hend : i.val = min vs.length 255 ↔ i.val = vs.length := by omega
      simp only [Fin.getElem_fin, pushByte_getElem, hcnt, hend] at hbuf ⊢
      rw [hbuf i]
      obtain hlt | heq | hgt := Nat.lt_trichotomy i.val vs.length
      · rw [if_neg hlt.ne, List.getD_append _ _ _ _ hlt]
      · rw [if_pos heq, heq, List.getD_append_right _ _ _ _ le_rfl, Nat.sub_self]; rfl
      · rw [if_neg hgt.ne', List.getD_eq_default _ _ hgt.le, List.getD_eq_default _ _ (by simpa using hgt)]

/-- Settles O7. -/
theorem pushesFillStaging : Obligations.PushesFillStaging := by
  unfold Obligations.PushesFillStaging
  exact fun cap vs hcap => foldl_pushByte_cleared (by omega) vs

/-! ### Reads -/

/-- Settles O45: each line of the read table shows a part on which the two blocks agree. -/
theorem secretsHaveNoReadPath : Obligations.SecretsHaveNoReadPath := by
  unfold Obligations.SecretsHaveNoReadPath
  intro b c same a
  obtain ⟨hcnt, hkmv, hopcv, hstatus, hresults⟩ := same
  rw [memRead, memRead]
  cases locate a with
  | cmd | pushPort | amf | unmapped => rfl
  | status => rw [statusByte_eq, statusByte_eq, hkmv, hopcv, hstatus]
  | errcode | errfield => rw [hstatus]
  | rvalid | result => rw [hresults]
  | counter x => exact hcnt x

/-- After reset every address reads 0x00 (R37). -/
theorem memRead_reset (a : Byte) : memRead Block.reset a = 0x00 := by
  rw [memRead]
  cases locate a with
  | cmd | status | errcode | errfield | rvalid | pushPort | unmapped => rfl
  | counter x => cases x <;> rfl
  | amf i => exact byteAt_zeros 2 i
  | result r i => exact resultByte_cleared r i

/-- Settles O4. -/
theorem resetRestoresEveryValue : Obligations.ResetRestoresEveryValue := by
  unfold Obligations.ResetRestoresEveryValue
  exact ⟨rfl, fun _ => rfl, memRead_reset⟩

end Sys2Proof.Machine
end

section
/-! PROOF. The register space (20_memory.md): the read table (R51) and the write table (R52) line by line, from where each
address lies (R56), and a write of a command byte to `CMD` as one step (R95, R96). -/

namespace Sys2Proof.Machine

/-! ### Reads -/

/-- The addresses of R56's map that name nothing (R57). -/
theorem locate_unmapped_iff : ∀ a : Byte, locate a = .unmapped ↔
    (0x05 ≤ a.toNat ∧ a.toNat ≤ 0x07) ∨ (0x12 ≤ a.toNat ∧ a.toNat ≤ 0x1F) ∨ (0x38 ≤ a.toNat ∧ a.toNat ≤ 0x3F) ∨
      (0x7E ≤ a.toNat ∧ a.toNat ≤ 0x7F) ∨ 0x90 ≤ a.toNat := by decide

/-- An unmapped address reads as 0x00 (R57). -/
theorem memRead_unmapped (b : Block) {a : Byte} (h : locate a = .unmapped) : memRead b a = 0x00 := by
  rw [memRead, h]

/-- A push port is write-only: it reads as 0x00 (R51). -/
theorem memRead_pushPort (b : Block) (x : Operand) : memRead b x.pushPort = 0x00 := by
  rw [memRead, locate_pushPort]

/-- The four push ports fill 0x08 to 0x0B (R27, R56). -/
theorem exists_pushPort_of_range {a : Byte} (h : 0x08 ≤ a.toNat ∧ a.toNat ≤ 0x0B) : ∃ x : Operand, a = x.pushPort := by
  have ports : a = 0x08 ∨ a = 0x09 ∨ a = 0x0A ∨ a = 0x0B := by bv_omega
  obtain rfl | rfl | rfl | rfl := ports
  exacts [⟨.k, rfl⟩, ⟨.op, rfl⟩, ⟨.rand, rfl⟩, ⟨.sqn, rfl⟩]

/-- The value of a result register, byte 0 first (R31). -/
def ResultReg.bytes (r : ResultReg) (v : Results) : Bytes r.size :=
  match r with
  | .randOut => v.randOut
  | .xres => v.xres
  | .autn => v.autn
  | .ck => v.ck
  | .ik => v.ik
  | .maca => v.maca
  | .ak => v.ak
  | .opcOut => v.opcOut

theorem resultByte_eq_byteAt (r : ResultReg) (i : Nat) (v : Results) : resultByte r i v = byteAt (r.bytes v) i := by
  cases r <;> rfl

/-- The addresses of a result register show its bytes in order (R31, R51, R53). -/
theorem memRead_bytes (b : Block) (r : ResultReg) (i : Fin r.size) :
    memRead b (BitVec.ofNat 8 (r.base + i.val)) = (r.bytes b.results)[i] :=
  calc memRead b (BitVec.ofNat 8 (r.base + i.val))
    _ = resultByte r i.val b.results := memRead_result b r i.val i.isLt
    _ = byteAt (r.bytes b.results) i.val := resultByte_eq_byteAt r i.val b.results
    _ = (r.bytes b.results)[i] := byteAt_of_lt _ i.val i.isLt

/-- Settles O5: each line of R51's table is read off the place of its addresses. -/
theorem readTableReturns : Obligations.ReadTableReturns := by
  unfold Obligations.ReadTableReturns
  refine ⟨fun s a => ⟨rfl, hostRead_fst a s, hostRead_block a s⟩, fun b => ?_⟩
  have port : ∀ a : Byte, 0x08 ≤ a.toNat ∧ a.toNat ≤ 0x0B → memRead b a = 0x00 := fun a h => by
    obtain ⟨x, rfl⟩ := exists_pushPort_of_range h
    exact memRead_pushPort b x
  exact ⟨rfl, statusByte_eq b, rfl, rfl, rfl, port, rfl, rfl, rfl, rfl, byteAt_zeros 2 0, byteAt_zeros 2 1,
    memRead_bytes b .randOut, memRead_bytes b .xres, memRead_bytes b .autn, memRead_bytes b .ck, memRead_bytes b .ik,
    memRead_bytes b .maca, memRead_bytes b .ak, memRead_bytes b .opcOut,
    fun a h => memRead_unmapped b ((locate_unmapped_iff a).mpr h)⟩

/-! ### Writes -/

/-- A write to an address that is neither `CMD` nor a push port has no effect (R52, R57). -/
theorem transact_write_ignored {a : Byte} (v : Byte) (s : State) (hcmd : a ≠ 0x00)
    (hport : ∀ x : Operand, a ≠ x.pushPort) : transact (.write a v) s = .next s := by
  rw [transact, memWrite]
  cases hl : locate a with
  | cmd => exact absurd ((locate_cmd_iff a).mp hl) hcmd
  | pushPort x => exact absurd (eq_pushPort_of_locate hl) (hport x)
  | status | errcode | errfield | rvalid | counter | amf | result | unmapped => rfl

/-- Settles O6: the five addresses that act, and every other. -/
theorem writeTableActs : Obligations.WriteTableActs := by
  unfold Obligations.WriteTableActs
  intro s a v
  refine ⟨?cmd, ?k, ?op, ?rand, ?sqn, ?ignored⟩
  case cmd => rintro rfl; rfl
  case k => rintro rfl; exact transact_push .k v s
  case op => rintro rfl; exact transact_push .op v s
  case rand => rintro rfl; exact transact_push .rand v s
  case sqn => rintro rfl; exact transact_push .sqn v s
  case ignored =>
    rintro ⟨hcmd, hk, hop, hrand, hsqn⟩
    exact transact_write_ignored v s hcmd fun x => by cases x <;> assumption

/-! ### A command byte -/

/-- A byte that decodes to a command runs it (R96). -/
theorem execCommand_of_decode {c : Byte} {i : Instr} (h : decode c = .instr i) (s : State) :
    execCommand c s = exec i s := by
  rw [execCommand, h]

/-- Settles O1: the step is the write to `CMD`, and that runs the command. -/
theorem stepRunsDecodedCommand : Obligations.StepRunsDecodedCommand := by
  unfold Obligations.StepRunsDecodedCommand
  intro s c rest i hscript hdecode
  exact (step_command hscript).trans (execCommand_of_decode hdecode _)

end Sys2Proof.Machine
end

section
/-! PROOF. The encoding (30_encoding.md sections 1 to 3): decoder and encoder, the match and mask table (R78), the
illegal bytes (R76, R77); `PUSH` as a script (R82); and the presence flags (R74). -/

namespace Sys2Proof.Machine

/-! ### Decoder and encoder -/

/-- The fields of a format P byte are those it was built from (R72). -/
theorem commandFields_encodeFormatP (opcode : BitVec 4) (p0 p1 : Bool) :
    commandFields (encodeFormatP opcode p0 p1) = ⟨0#2 ++ BitVec.ofBool p1 ++ BitVec.ofBool p0, opcode⟩ := by
  revert opcode p0 p1
  decide

/-- Format P gives back both presence flags, each in its own place (R72). -/
theorem decodeFormatP_flags (i : (p0 p1 : Bool) → Instr) (p0 p1 : Bool) :
    decodeFormatP (0#2 ++ BitVec.ofBool p1 ++ BitVec.ofBool p0) i = .instr (i p0 p1) := by
  cases p0 <;> cases p1 <;> rfl

/-- The byte of a command decodes to it (R73, R81). -/
theorem decode_encode (i : Instr) : decode (encode i) = .instr i := by
  cases i with
  | clr | opc | f1 | f2 | f3 | f4 | f5 => rfl
  | loadkey opp kp =>
    rw [encode, decode, commandFields_encodeFormatP]
    exact decodeFormatP_flags .loadkey opp kp
  | genav sqnp randp =>
    rw [encode, decode, commandFields_encodeFormatP]
    exact decodeFormatP_flags .genav sqnp randp

/-- Settles O9. -/
theorem encodeDecodeAgree : Obligations.EncodeDecodeAgree := by
  unfold Obligations.EncodeDecodeAgree
  exact ⟨decode_encode, fun _ _ => encode_of_decode⟩

/-- Settles O12: on every byte, the field checks and the decoder agree. -/
theorem wellFormedWordsDecode : Obligations.WellFormedWordsDecode := by
  unfold Obligations.WellFormedWordsDecode
  intro c
  have agree : ∀ c : Byte, (commandFields c).wellFormed = (decode c).instr?.isSome := by decide
  rw [agree, instr?_isSome_iff]

/-- Settles O13. -/
theorem writtenOutCommandBytes : Obligations.WrittenOutCommandBytes := by
  unfold Obligations.WrittenOutCommandBytes
  exact ⟨rfl, rfl, rfl, rfl, rfl, rfl, rfl⟩

/-! ### The match and mask table -/

/-- Every command's row stands in the table (R78). -/
theorem opcodeRow_mem_opcodeTable (i : Instr) : opcodeRow i ∈ opcodeTable := by
  cases i <;> simp only [opcodeRow] <;> decide

/-- A row of the table covers a byte exactly when it is the row of the byte's command (R78). -/
theorem covers_iff_row_of_decoded :
    ∀ r ∈ opcodeTable, ∀ c : Byte, r.covers c = true ↔ (decode c).instr?.map opcodeRow = some r := by
  decide

/-- Settles O11: a row covers the bytes of its commands; a byte has one command at most, and no row stands twice. -/
theorem matchMaskTableAgrees : Obligations.MatchMaskTableAgrees := by
  unfold Obligations.MatchMaskTableAgrees
  constructor
  · intro i c
    rw [covers_iff_row_of_decoded _ (opcodeRow_mem_opcodeTable i)]
    cases decode c <;> simp [Decoded.instr?]
  · have distinct : opcodeTable.Nodup := by decide
    refine distinct.imp_of_mem fun {r q} hr hq hne c ⟨hrc, hqc⟩ => hne ?_
    rw [covers_iff_row_of_decoded r hr] at hrc
    rw [covers_iff_row_of_decoded q hq, hrc] at hqc
    exact Option.some.inj hqc

/-! ### Illegal bytes -/

/-- Writing a byte that decodes to no command is the failed command of R181 on `CMD` (R76, R77). -/
theorem transact_illegal {c : Byte} (h : ∀ i, decode c ≠ .instr i) (s : State) :
    transact (.write 0x00 c) s = .next { s with block := blockAfterFailure .illegalCommand .cmd s.block } := by
  change execCommand c s = _
  rw [execCommand]
  cases hd : decode c with
  | instr i => exact absurd hd (h i)
  | illegal why => exact illegal_effect s

/-- Settles O10: the bytes by their fields and by their number, and what the block does with them. -/
theorem illegalBytesFail : Obligations.IllegalBytesFail := by
  unfold Obligations.IllegalBytesFail
  refine ⟨by decide, by decide, by decide, fun c => ?_, by decide +kernel, by decide +kernel,
    fun s c h => transact_illegal h s⟩
  rw [← instr?_isSome_iff]
  revert c
  decide

/-! ### `PUSH` -/

/-- A `PUSH` alone is its pushes, first byte first (R82). -/
theorem runScript_push (x : Operand) (vs : ByteString) (s : State) :
    runScript (pushScript x vs) s = .next (vs.foldl (fun s v => pushPortWrite x v s) s) := by
  rw [← List.append_nil (pushScript x vs), runScript_push_append]
  rfl

/-- Settles O8. -/
theorem pushMacroStagesOperand : Obligations.PushMacroStagesOperand := by
  unfold Obligations.PushMacroStagesOperand
  intro s vs
  rw [runScript_push, runScript_push, runScript_push, runScript_push, foldl_push_k, foldl_push_op, foldl_push_rand,
    foldl_push_sqn]
  exact ⟨rfl, rfl, rfl, rfl⟩

/-! ### Presence flags -/

/-- Without a KeyMaterial `GENAV` fails before it looks at an operand (R180). -/
theorem exec_genav_without_key {s : State} (sqnp randp : Bool) (h : s.block.km.valid = false) :
    exec (.genav sqnp randp) s = .next { s with block := blockAfterFailure .noKeyMaterial .km s.block } :=
  runCommand_needs_key h

/-- RAND present and 16 bytes long is taken from staging (R156). -/
theorem selectRand_staged {s : State} (h : s.block.staging.rand.cnt = 16) :
    selectRand true s = .success s.block.staging.rand.buf s := stagedRand_ok h

/-- RAND present and of another length is refused (R156, R179). -/
theorem selectRand_staged_bad {s : State} (h : s.block.staging.rand.cnt ≠ 16) :
    selectRand true s = .failure .invalidInputLength .rand s := stagedRand_bad h

/-- RAND absent is drawn (R156). -/
theorem selectRand_answered {s : State} {d : Bytes 16} {src : RandomSource}
    (h : sourceAnswer s.draws s.source = some (d, src)) :
    selectRand false s = .success d { s with source := src, draws := s.draws + 1 } := by
  simp [selectRand, rngDraw, h]

/-- A draw that is not answered waits (R188). -/
theorem selectRand_silent {s : State} (h : sourceAnswer s.draws s.source = none) :
    selectRand false s = .stuck .randomSourceSilent := by
  simp [selectRand, rngDraw, h]

/-- `GENAV` without `RANDP` does not look at RAND's staging (R74): it draws. -/
theorem exec_genav_ignores_rand (s : State) (x : Staging 16) (p : Bool) :
    exec (.genav p false) { s with block := { s.block with staging := { s.block.staging with rand := x } } } =
      exec (.genav p false) s := by
  cases hv : s.block.km.valid with
  | false => rw [exec_genav_without_key p false hv, exec_genav_without_key p false (by exact hv)]; rfl
  | true =>
    rw [genav_by_rand p false hv, genav_by_rand p false (by exact hv)]
    cases ha : sourceAnswer s.draws s.source with
    | none => rw [selectRand_silent ha, selectRand_silent (by exact ha)]
    | some answer => rw [selectRand_answered ha, selectRand_answered (by exact ha)]; rfl

/-- `GENAV` without `SQNP` does not look at SQN's staging (R74): it takes zeros. -/
theorem exec_genav_ignores_sqn (s : State) (y : Staging 6) (p : Bool) :
    exec (.genav false p) { s with block := { s.block with staging := { s.block.staging with sqn := y } } } =
      exec (.genav false p) s := by
  cases hv : s.block.km.valid with
  | false => rw [exec_genav_without_key false p hv, exec_genav_without_key false p (by exact hv)]; rfl
  | true =>
    rw [genav_by_rand false p hv, genav_by_rand false p (by exact hv)]
    cases p with
    | false =>
      cases ha : sourceAnswer s.draws s.source with
      | none => rw [selectRand_silent ha, selectRand_silent (by exact ha)]
      | some answer => rw [selectRand_answered ha, selectRand_answered (by exact ha)]; rfl
    | true =>
      by_cases hr : s.block.staging.rand.cnt = 16
      · rw [selectRand_staged hr, selectRand_staged (by exact hr)]; rfl
      · rw [selectRand_staged_bad hr, selectRand_staged_bad (by exact hr)]; rfl

/-- Settles O47: `GENAV` by how it gets its operands; `LOADKEY` fails at the flag itself. -/
theorem absentOperandsAreIgnored : Obligations.AbsentOperandsAreIgnored := by
  unfold Obligations.AbsentOperandsAreIgnored
  intro s x y p
  refine ⟨exec_genav_ignores_rand s x p, exec_genav_ignores_sqn s y p, rfl, ?_⟩
  cases p <;> rfl

end Sys2Proof.Machine
end

section
/-! PROOF. Host software (30_encoding.md section 5): the hex codec (R88, R89); `LOAD_KEYMATERIAL` (R86) by the first
check that fails; `GENERATE_AV` (R87) by the choice of RAND; and from these the request (R90 to R93). -/

namespace Sys2Proof.Machine

/-! ### The hex codec -/

/-- A digit written is the digit read (R88, R89). -/
theorem hexValue_hexDigit {n : Nat} (h : n < 16) : hexValue (hexDigit n) = some n := by
  have digits : ∀ m : Fin 16, hexValue (hexDigit m.val) = some m.val := by decide
  exact digits ⟨n, h⟩

/-- The digits written are those of R89. -/
theorem hexDigit_mem_upperCase {n : Nat} (h : n < 16) : hexDigit n ∈ "0123456789ABCDEF".toList := by
  have digits : ∀ m : Fin 16, hexDigit m.val ∈ "0123456789ABCDEF".toList := by decide
  exact digits ⟨n, h⟩

theorem encodeHex_cons (b : Byte) (bytes : ByteString) :
    encodeHex (b :: bytes) = hexDigit (b.toNat / 16) :: hexDigit (b.toNat % 16) :: encodeHex bytes := rfl

/-- A byte is its two hex digits, the high-order one first. -/
theorem ofNat_hexDigits (b : Byte) : BitVec.ofNat 8 (16 * (b.toNat / 16) + b.toNat % 16) = b := by
  rw [Nat.div_add_mod, BitVec.ofNat_toNat, BitVec.setWidth_eq]

theorem decodeHex_encodeHex (bytes : ByteString) : decodeHex (encodeHex bytes) = some bytes := by
  induction bytes with
  | nil => rfl
  | cons b bytes ih =>
    have hb := b.isLt
    rw [encodeHex_cons, decodeHex, hexValue_hexDigit (by omega), hexValue_hexDigit (by omega), ih]
    simp only [ofNat_hexDigits]

theorem length_encodeHex (bytes : ByteString) : (encodeHex bytes).length = 2 * bytes.length := by
  induction bytes with
  | nil => rfl
  | cons b bytes ih => rw [encodeHex_cons, List.length_cons, List.length_cons, List.length_cons, ih]; omega

theorem mem_encodeHex {bytes : ByteString} {c : Char} (h : c ∈ encodeHex bytes) :
    c ∈ "0123456789ABCDEF".toList := by
  induction bytes with
  | nil => cases h
  | cons b bytes ih =>
    have hb := b.isLt
    rw [encodeHex_cons, List.mem_cons, List.mem_cons] at h
    obtain rfl | rfl | h := h
    · exact hexDigit_mem_upperCase (by omega)
    · exact hexDigit_mem_upperCase (by omega)
    · exact ih h

/-- Settles O49. -/
theorem hexRoundTrip : Obligations.HexRoundTrip := by
  unfold Obligations.HexRoundTrip
  exact fun bytes => ⟨decodeHex_encodeHex bytes, length_encodeHex bytes, fun _ => mem_encodeHex⟩

/-! ### An operand pushed from cleared staging -/

/-- Below saturation the counter tells the length exactly (R27). -/
theorem pushed_cnt_eq_iff {cap n : Nat} (hcap : cap ≤ 255) (hn : n < 255) (vs : ByteString) :
    (vs.foldl pushByte (clearedOperand cap)).cnt = BitVec.ofNat 8 n ↔ vs.length = n := by
  rw [← BitVec.toNat_inj, (foldl_pushByte_cleared hcap vs).1, BitVec.toNat_ofNat]
  omega

/-- A string that fills the buffer is the buffer (R27). -/
theorem pushed_buf_eq {cap : Nat} (hcap : cap ≤ 255) (v : Bytes cap) :
    (v.toList.foldl pushByte (clearedOperand cap)).buf = v := by
  apply Vector.ext
  intro i hi
  have hbyte := (foldl_pushByte_cleared hcap v.toList).2 ⟨i, hi⟩
  rw [List.getD_eq_getElem _ _ (by simpa using hi), Vector.getElem_toList] at hbyte
  exact hbyte

/-- A string that fills the buffer is counted in full (R27). -/
theorem pushed_cnt_eq {cap : Nat} (hcap : cap < 255) (v : Bytes cap) :
    (v.toList.foldl pushByte (clearedOperand cap)).cnt = BitVec.ofNat 8 cap :=
  (pushed_cnt_eq_iff hcap.le hcap _).mpr v.length_toList

/-- A byte string of length `n` is a value of `Bytes n` (R13). -/
theorem exists_bytes_of_length {n : Nat} {vs : ByteString} (h : vs.length = n) : ∃ v : Bytes n, v.toList = vs :=
  ⟨⟨vs.toArray, h⟩, rfl⟩

/-! ### `LOADKEY` and `LOAD_KEYMATERIAL` by the first check that fails -/

/-- The first check of R106 that fails, in the order of R182, with what it raises; none when all four pass. -/
def loadkeyFailure (opp kp : Bool) (a : StagingArea) : Option (ErrClass × ErrField) :=
  if opp = false then some (.missingParameter, .op)
  else if kp = false then some (.missingParameter, .key)
  else if a.op.cnt ≠ 16 then some (.invalidKeyLength, .op)
  else if a.k.cnt ≠ 16 then some (.invalidKeyLength, .key)
  else none

/-- With both operands present only the length checks are left. -/
theorem loadkeyFailure_present (a : StagingArea) : loadkeyFailure true true a =
    if a.op.cnt ≠ 16 then some (.invalidKeyLength, .op)
    else if a.k.cnt ≠ 16 then some (.invalidKeyLength, .key)
    else none := rfl

/-- What the block can refuse a request with (R176, R178, R179). -/
def requestFailures : List (ErrClass × ErrField) :=
  [(.missingParameter, .op), (.missingParameter, .key), (.invalidKeyLength, .op), (.invalidKeyLength, .key),
    (.invalidInputLength, .sqn), (.invalidInputLength, .rand)]

/-- The codes of these failures (R174, R175); `MalformedInput` is not among them (R93). -/
theorem requestFailures_codes : ∀ p ∈ requestFailures, errCode p.1 ≠ 0x02 ∧
    (errCode p.1, errField p.2) ∈ [(0x01#8, 0x01#8), (0x01#8, 0x02#8), (0x03#8, 0x01#8), (0x03#8, 0x02#8),
      (0x04#8, 0x03#8), (0x04#8, 0x04#8)] := by decide

theorem loadkeyFailure_mem {opp kp : Bool} {a : StagingArea} {c : ErrClass} {f : ErrField}
    (h : loadkeyFailure opp kp a = some (c, f)) : (c, f) ∈ requestFailures := by
  unfold loadkeyFailure at h
  split_ifs at h <;> cases h <;> decide

theorem loadkeyFailure_eq_none_iff {opp kp : Bool} {a : StagingArea} :
    loadkeyFailure opp kp a = none ↔ opp = true ∧ kp = true ∧ a.op.cnt = 16 ∧ a.k.cnt = 16 := by
  unfold loadkeyFailure
  split_ifs <;> simp_all

/-- `LOADKEY` raises what its first failing check says (R106, R181). -/
theorem exec_loadkey_refused {opp kp : Bool} {s : State} {c : ErrClass} {f : ErrField}
    (h : loadkeyFailure opp kp s.block.staging = some (c, f)) :
    exec (.loadkey opp kp) s = .next { s with block := blockAfterFailure c f s.block } := by
  cases opp with
  | false => cases h; rfl
  | true =>
    cases kp with
    | false => cases h; rfl
    | true =>
      rw [loadkeyFailure_present] at h
      split_ifs at h with ho hk
      · cases h; exact loadkey_bad_op ho
      · cases h; exact loadkey_bad_key (not_not.mp ho) hk

/-- The block after a successful `LOADKEY` of `k` and `op` (R106, R109). -/
abbrev blockKeyLoaded (k op : Bytes 16) : Block :=
  blockAfterSuccess { k := k, op := op, valid := true } { opc := zeros 16, valid := false } clearedResults

/-- `LOADKEY` with no failing check (R106). -/
theorem exec_loadkey_accepted {opp kp : Bool} {s : State} (h : loadkeyFailure opp kp s.block.staging = none) :
    exec (.loadkey opp kp) s =
      .next { s with block := blockKeyLoaded s.block.staging.k.buf s.block.staging.op.buf } := by
  obtain ⟨rfl, rfl, ho, hk⟩ := loadkeyFailure_eq_none_iff.mp h
  exact loadkey_success ho hk

/-- The machine after a successful `LOAD_KEYMATERIAL` of `k` and `op`, the bytes read by then being `bytes` (R86). -/
abbrev keyLoaded (k op : Bytes 16) (bytes : List Byte) (s : State) : State :=
  { s with block := blockKeyLoaded k op, returned := bytes }

/-- `LOAD_KEYMATERIAL` refused by the block (R86): the failure's code and field, slot and memo kept. -/
theorem loadKeyMaterial_refused {op key : Option ByteString} {s : State} {c : ErrClass} {f : ErrField}
    (h : loadkeyFailure op.isSome key.isSome (keysPushed op key s).block.staging = some (c, f)) :
    ∃ t, loadKeyMaterial op key s = .next (.failure (errCode c) (errField f), t) ∧
      t.block = blockAfterFailure c f s.block := by
  rw [loadKeyMaterial_eq, exec_loadkey_refused h]
  exact checkOutcome_failed _ _ rfl

/-- `LOAD_KEYMATERIAL` accepted by the block (R86): the slot holds what was pushed. -/
theorem loadKeyMaterial_accepted {op key : Option ByteString} {s : State}
    (h : loadkeyFailure op.isSome key.isSome (keysPushed op key s).block.staging = none) :
    ∃ bytes, loadKeyMaterial op key s = .next (.success (), keyLoaded (keysPushed op key s).block.staging.k.buf
      (keysPushed op key s).block.staging.op.buf bytes s) := by
  rw [loadKeyMaterial_eq, exec_loadkey_accepted h]
  exact checkOutcome_eq _ _

/-- From cleared staging the checks on two present operands are checks of their lengths (R178). -/
theorem loadkeyFailure_pushed {s : State} (hs : s.block.staging = clearedStaging) (o k : ByteString) :
    loadkeyFailure true true (keysPushed (some o) (some k) s).block.staging =
      if o.length ≠ 16 then some (.invalidKeyLength, .op)
      else if k.length ≠ 16 then some (.invalidKeyLength, .key)
      else none := by
  have len (vs : ByteString) : (vs.foldl pushByte (clearedOperand 16)).cnt = 16 ↔ vs.length = 16 :=
    pushed_cnt_eq_iff (n := 16) (by decide) (by decide) vs
  simp only [loadkeyFailure_present, hs, clearedStaging, Option.getD_some, len, ne_eq]

/-- `LOAD_KEYMATERIAL` from cleared staging on two operands of 16 bytes (R86, R106). -/
theorem loadKeyMaterial_pair {s : State} (hs : s.block.staging = clearedStaging) (op k : Bytes 16) :
    ∃ bytes, loadKeyMaterial (some op.toList) (some k.toList) s =
      .next (.success (), keyLoaded k op bytes s) := by
  obtain ⟨bytes, h⟩ := loadKeyMaterial_accepted (s := s) (op := some op.toList) (key := some k.toList)
    (by rw [Option.isSome_some, Option.isSome_some, loadkeyFailure_pushed hs]; simp)
  rw [keysPushed, hs] at h
  simp only [clearedStaging, Option.getD_some, pushed_buf_eq (show 16 ≤ 255 by decide)] at h
  exact ⟨bytes, h⟩

/-- Settles O50. -/
theorem loadKeyMaterialAnswers : Obligations.LoadKeyMaterialAnswers := by
  unfold Obligations.LoadKeyMaterialAnswers
  intro s op key hs
  have refused {c : ErrClass} {f : ErrField}
      (h : loadkeyFailure op.isSome key.isSome (keysPushed op key s).block.staging = some (c, f)) :
      ∃ t, loadKeyMaterial op key s = .next (.failure (errCode c) (errField f), t) ∧ t.block.km = s.block.km := by
    obtain ⟨t, ht, hb⟩ := loadKeyMaterial_refused h
    exact ⟨t, ht, by rw [hb]; rfl⟩
  cases op with
  | none =>
    obtain ⟨t, ht, hkm⟩ := refused (c := .missingParameter) (f := .op) rfl
    exact ⟨t, _, ht, rfl, hkm⟩
  | some o =>
    cases key with
    | none =>
      obtain ⟨t, ht, hkm⟩ := refused (c := .missingParameter) (f := .key) rfl
      exact ⟨t, _, ht, rfl, hkm⟩
    | some k =>
      have first := loadkeyFailure_pushed hs o k
      by_cases ho : o.length = 16
      · by_cases hk : k.length = 16
        · obtain ⟨op, rfl⟩ := exists_bytes_of_length ho
          obtain ⟨key, rfl⟩ := exists_bytes_of_length hk
          obtain ⟨bytes, ht⟩ := loadKeyMaterial_pair hs op key
          exact ⟨_, _, ht, by simp⟩
        · obtain ⟨t, ht, hkm⟩ := refused (c := .invalidKeyLength) (f := .key) (first.trans (by simp [ho, hk]))
          exact ⟨t, _, ht, by simpa [ho, hk] using ⟨⟨rfl, rfl⟩, hkm⟩⟩
      · obtain ⟨t, ht, hkm⟩ := refused (c := .invalidKeyLength) (f := .op) (first.trans (if_pos ho))
        exact ⟨t, _, ht, by simpa [ho] using ⟨⟨rfl, rfl⟩, hkm⟩⟩

/-! ### `GENERATE_AV` by the choice of RAND -/

/-- The vector of R163 from its inputs, as `GENERATE_AV` returns it (R87). -/
def authVector (P : Params) (opc rand : Bytes 16) (sqn : Bytes 6) : AuthVector where
  rand := rand.toList
  xres := (f2 P opc rand).toList
  autn := (assembleAutn sqn (f5 P opc rand) amfConst (f1 P opc rand sqn amfConst)).toList
  ck := (f3 P opc rand).toList
  ik := (f4 P opc rand).toList

/-- The success record of a vector, its five strings written out (R91). -/
theorem encodeVector_authVector (P : Params) (opc rand : Bytes 16) (sqn : Bytes 6) :
    encodeVector (authVector P opc rand sqn) = .success (encodeHex rand.toList) (encodeHex (f2 P opc rand).toList)
      (encodeHex (assembleAutn sqn (f5 P opc rand) amfConst (f1 P opc rand sqn amfConst)).toList)
      (encodeHex (f3 P opc rand).toList) (encodeHex (f4 P opc rand).toList) := by
  simp only [encodeVector, authVector]

/-- `GENERATE_AV` refused by the block (R87): the failure's code and field. -/
theorem generateAv_refused {sqn rand : Option ByteString} {s t : State} {c : ErrClass} {f : ErrField}
    (h : exec (.genav sqn.isSome rand.isSome) (vectorInputsPushed sqn rand s) = .next t)
    (ht : t.block.status = failureStatus c f) :
    ∃ u, generateAv sqn rand s = .next (.failure (errCode c) (errField f), u) := by
  rw [generateAv_eq, h]
  obtain ⟨u, hu, -⟩ := checkOutcome_failed t (fun u => .next (.success (readVector u).1, (readVector u).2))
    (by rw [ht]; rfl)
  exact ⟨u, by rw [ht] at hu; exact hu⟩

/-- `GENERATE_AV` completed by the block (R87): the five registers of the vector. -/
theorem generateAv_completed {sqn rand : Option ByteString} {s t : State}
    (h : exec (.genav sqn.isSome rand.isSome) (vectorInputsPushed sqn rand s) = .next t)
    (ht : t.block.status.err = false) :
    ∃ u, generateAv sqn rand s = .next (.success
      { rand := t.block.results.randOut.toList, xres := t.block.results.xres.toList,
        autn := t.block.results.autn.toList, ck := t.block.results.ck.toList, ik := t.block.results.ik.toList }, u) := by
  rw [generateAv_eq, h]
  obtain ⟨w, hw, hb⟩ := checkOutcome_passed t (fun u => .next (.success (readVector u).1, (readVector u).2)) ht
  rw [readVector_eq, hb] at hw
  exact ⟨_, hw⟩

section
variable {sqn rand : Option ByteString} {s u : State} {r : Bytes 16}

/-- RAND of a wrong length is refused (R162, R179). -/
theorem generateAv_bad_rand {vs : ByteString} (hv : s.block.km.valid = true)
    (hr : (vectorInputsPushed sqn (some vs) s).block.staging.rand.cnt ≠ 16) :
    ∃ t, generateAv sqn (some vs) s = .next (.failure (errCode .invalidInputLength) (errField .rand), t) := by
  have hx := genav_by_rand (s := vectorInputsPushed sqn (some vs) s) sqn.isSome true hv
  rw [selectRand_staged_bad hr] at hx
  exact generateAv_refused hx rfl

/-- SQN of a wrong length is refused once RAND is chosen (R162, R179). -/
theorem generateAv_bad_sqn {vs : ByteString} (hv : s.block.km.valid = true)
    (hsel : selectRand rand.isSome (vectorInputsPushed (some vs) rand s) = .success r u)
    (hq : (vectorInputsPushed (some vs) rand s).block.staging.sqn.cnt ≠ 6) :
    ∃ t, generateAv (some vs) rand s = .next (.failure (errCode .invalidInputLength) (errField .sqn), t) := by
  have hx := genav_by_rand (s := vectorInputsPushed (some vs) rand s) true rand.isSome hv
  rw [hsel] at hx
  exact generateAv_refused (hx.trans (if_neg fun h => hq (h rfl))) rfl

/-- A draw that is not answered never ends (R188). -/
theorem generateAv_waits (hv : s.block.km.valid = true) (ha : sourceAnswer s.draws s.source = none) :
    generateAv sqn none s = .fault .randomSourceSilent := by
  have hx := genav_by_rand (s := vectorInputsPushed sqn none s) sqn.isSome false hv
  rw [selectRand_silent (by exact ha)] at hx
  rw [generateAv_eq, Option.isSome_none, hx]

/-- With RAND chosen and SQN absent or 6 bytes long, `GENERATE_AV` returns the vector (R87, R162). -/
theorem generateAv_chosen (hv : s.block.km.valid = true)
    (hsel : selectRand rand.isSome (vectorInputsPushed sqn rand s) = .success r u)
    (hq : sqn.isSome = true → (vectorInputsPushed sqn rand s).block.staging.sqn.cnt = 6) :
    ∃ t, generateAv sqn rand s = .next (.success (authVector (paramsOf s.inst)
      (ensureOpc (paramsOf s.inst) s.block.km s.block.memo).opc r
      (if sqn.isSome then (vectorInputsPushed sqn rand s).block.staging.sqn.buf else zeros 6)), t) := by
  have hx := genav_by_rand (s := vectorInputsPushed sqn rand s) sqn.isSome rand.isSome hv
  rw [hsel] at hx
  exact generateAv_completed (hx.trans (if_pos hq)) rfl

/-- From cleared staging, RAND supplied with 16 bytes is the RAND chosen. -/
theorem selectRand_pushed (hs : s.block.staging = clearedStaging) (sqn : Option ByteString) (r : Bytes 16) :
    selectRand true (vectorInputsPushed sqn (some r.toList) s) =
      .success r (vectorInputsPushed sqn (some r.toList) s) := by
  have hrand : (vectorInputsPushed sqn (some r.toList) s).block.staging.rand =
      r.toList.foldl pushByte (clearedOperand 16) := by rw [vectorInputsPushed, hs]; rfl
  rw [selectRand_staged (by rw [hrand]; exact pushed_cnt_eq (by decide) r), hrand, pushed_buf_eq (by decide)]

/-- From cleared staging with a coherent memo, `GENERATE_AV` returns the vector of its inputs, SQN zero when absent. -/
theorem generateAv_vector (hs : s.block.staging = clearedStaging) (hv : s.block.km.valid = true)
    (hm : MemoCoherent (paramsOf s.inst) s.block) (sqn : Option (Bytes 6))
    (hsel : selectRand rand.isSome (vectorInputsPushed (sqn.map Vector.toList) rand s) = .success r u) :
    ∃ t, generateAv (sqn.map Vector.toList) rand s = .next (.success (authVector (paramsOf s.inst)
      (deriveOpc (paramsOf s.inst) s.block.km.k s.block.km.op) r (sqn.getD (zeros 6))), t) := by
  cases sqn with
  | none =>
    obtain ⟨t, ht⟩ := generateAv_chosen hv hsel nofun
    exact ⟨t, by rw [ensureOpc_of_coherent hm] at ht; exact ht⟩
  | some v =>
    have hsqn : (vectorInputsPushed (some v.toList) rand s).block.staging.sqn =
        v.toList.foldl pushByte (clearedOperand 6) := by rw [vectorInputsPushed, hs]; rfl
    obtain ⟨t, ht⟩ := generateAv_chosen hv hsel fun _ => by
      rw [Option.map_some, hsqn]; exact pushed_cnt_eq (by decide) v
    exact ⟨t, by rw [ensureOpc_of_coherent hm, Option.map_some, hsqn, pushed_buf_eq (by decide)] at ht; exact ht⟩

end

/-- Settles O51. -/
theorem generateAvReturnsVector : Obligations.GenerateAvReturnsVector := by
  unfold Obligations.GenerateAvReturnsVector
  intro s sqn rand hs hv hm
  exact generateAv_vector hs hv hm (some sqn) (selectRand_pushed hs _ rand)

/-! ### The request -/

/-- A field that is absent, or whose text decodes, does not stop the request (R90 step 1). -/
theorem decodeField_isOk {f : ErrField} {x : Option (List Char)}
    (h : ∀ text, x = some text → (decodeHex text).isSome) : ∃ b, decodeField f x = .ok b := by
  obtain ⟨b, hb, -⟩ | ⟨text, hx, hnone, -⟩ := decodeField_cases f x
  · exact ⟨b, hb⟩
  · have hsome := h text hx
    rw [hnone] at hsome
    cases hsome

/-- Settles O52: the first field that does not decode is the answer. -/
theorem malformedFieldStopsRequest : Obligations.MalformedFieldStopsRequest := by
  unfold Obligations.MalformedFieldStopsRequest
  intro q s cs hcs
  refine ⟨fun hop => ?op, fun hop hkey => ?key, fun hop hkey hsqn => ?sqn, fun hop hkey hsqn hrand => ?rand⟩
  case op =>
    rw [serveRequest, hop, decodeField_error hcs]
    rfl
  case key =>
    obtain ⟨o, ho⟩ := decodeField_isOk hop
    rw [serveRequest, ho, hkey, decodeField_error hcs]
    rfl
  case sqn =>
    obtain ⟨o, ho⟩ := decodeField_isOk hop
    obtain ⟨k, hk⟩ := decodeField_isOk hkey
    rw [serveRequest, ho, hk, hsqn, decodeField_error hcs]
    rfl
  case rand =>
    obtain ⟨o, ho⟩ := decodeField_isOk hop
    obtain ⟨k, hk⟩ := decodeField_isOk hkey
    obtain ⟨v, hv⟩ := decodeField_isOk hsqn
    rw [serveRequest, ho, hk, hv, hrand, decodeField_error hcs]
    rfl

/-- A request whose KeyMaterial the block refuses is answered with that check's record (R90 step 2, R92). -/
theorem serveDecoded_key_refused {op key : Option ByteString} {s : State} {c : ErrClass} {f : ErrField}
    (sqn rand : Option ByteString)
    (h : loadkeyFailure op.isSome key.isSome (keysPushed op key s).block.staging = some (c, f)) :
    ∃ t, serveDecoded op key sqn rand s = .next (blockFailure (errCode c) (errField f), t) := by
  obtain ⟨t, ht, -⟩ := loadKeyMaterial_refused h
  exact ⟨t, serveDecoded_key_failed sqn rand ht⟩

/-- Settles O54: the pair is loaded, which empties the memo, and the vector is that of the pair. -/
theorem requestReturnsVector : Obligations.RequestReturnsVector := by
  unfold Obligations.RequestReturnsVector
  intro q s op k r sqn hs hop hkey hsqn hrand
  obtain ⟨bytes, hload⟩ := loadKeyMaterial_pair hs op k
  have answered {rand : Option ByteString} {u : State} (hr : q.rand.map decodeHex = rand.map some)
      (hsel : selectRand rand.isSome (vectorInputsPushed (sqn.map Vector.toList) rand
        (keyLoaded k op bytes s)) = .success r u) :
      ∃ t, serveRequest q s = .next (encodeVector (authVector (paramsOf s.inst)
        (deriveOpc (paramsOf s.inst) k op) r (sqn.getD (zeros 6))), t) := by
    obtain ⟨t, ht⟩ := generateAv_vector (s := keyLoaded k op bytes s) rfl rfl nofun sqn hsel
    rw [serveRequest_decoded (op := some op.toList) (key := some k.toList) s hop hkey
      (by rw [Option.map_map]; exact hsqn) hr, serveDecoded_key_loaded _ _ hload, ht]
    exact ⟨t, rfl⟩
  rw [encodeVector_authVector] at answered
  obtain hr | ⟨hnone, src, ha⟩ := hrand
  · exact answered (rand := some r.toList) hr (selectRand_pushed (s := keyLoaded k op bytes s) rfl _ r)
  · exact answered (rand := none) (by rw [hnone]; rfl) (selectRand_answered ha)

/-- Settles O53: the checks of the KeyMaterial, then, with a good pair loaded, those of RAND and SQN. -/
theorem requestFailsWithRecord : Obligations.RequestFailsWithRecord := by
  unfold Obligations.RequestFailsWithRecord
  intro q s op key sqn rand hs hop hkey hsqn hrand
  rw [serveRequest_decoded s hop hkey hsqn hrand]
  refine ⟨?noOp, ?noKey, ?both⟩
  case noOp =>
    rintro rfl
    exact serveDecoded_key_refused (c := .missingParameter) (f := .op) sqn rand rfl
  case noKey =>
    rintro hpresent rfl
    obtain ⟨o, rfl⟩ := Option.ne_none_iff_exists'.mp hpresent
    exact serveDecoded_key_refused (c := .missingParameter) (f := .key) sqn rand rfl
  case both =>
    rintro o k rfl rfl
    have first := loadkeyFailure_pushed hs o k
    refine ⟨fun ho => ?badOp, fun ho hk => ?badKey, fun ho hk => ?loaded⟩
    case badOp =>
      exact serveDecoded_key_refused (c := .invalidKeyLength) (f := .op) sqn rand (first.trans (if_pos ho))
    case badKey =>
      exact serveDecoded_key_refused (c := .invalidKeyLength) (f := .key) sqn rand (first.trans (by simp [ho, hk]))
    case loaded =>
      obtain ⟨op, rfl⟩ := exists_bytes_of_length ho
      obtain ⟨key, rfl⟩ := exists_bytes_of_length hk
      obtain ⟨bytes, hload⟩ := loadKeyMaterial_pair hs op key
      rw [serveDecoded_key_loaded sqn rand hload]
      refine ⟨?badRand, ?badSqn⟩
      case badRand =>
        rintro r rfl hr
        obtain ⟨t, ht⟩ := generateAv_bad_rand (sqn := sqn) (vs := r)
          (s := keyLoaded key op bytes s) rfl
          (mt (pushed_cnt_eq_iff (n := 16) (by decide) (by decide) r).mp hr)
        rw [ht]
        exact ⟨t, rfl⟩
      case badSqn =>
        rintro v rfl hv hchoice
        obtain ⟨r, u, hsel⟩ : ∃ r u, selectRand rand.isSome (vectorInputsPushed (some v) rand
            (keyLoaded key op bytes s)) = .success r u := by
          obtain ⟨r, rfl, hr⟩ | ⟨rfl, answer, ha⟩ := hchoice
          · obtain ⟨r, rfl⟩ := exists_bytes_of_length hr
            exact ⟨_, _, selectRand_pushed (s := keyLoaded key op bytes s) rfl _ r⟩
          · exact ⟨_, _, selectRand_answered ha⟩
        obtain ⟨t, ht⟩ := generateAv_bad_sqn (s := keyLoaded key op bytes s) rfl hsel
          (mt (pushed_cnt_eq_iff (n := 6) (by decide) (by decide) v).mp hv)
        rw [ht]
        exact ⟨t, rfl⟩

/-! ### Everything a request can end in -/

/-- The ways `GENERATE_AV` can end while a KeyMaterial is held (R87, R162, R188). -/
inductive VectorAnswer (rand : Option ByteString) : DriverOutcome AuthVector → Prop where
  /-- A vector. -/
  | returned (P : Params) (opc r : Bytes 16) (sqn : Bytes 6) (t : State) :
      VectorAnswer rand (.next (.success (authVector P opc r sqn), t))
  /-- An operand of a wrong length (R179). -/
  | refused (f : ErrField) (t : State) (field : f = .sqn ∨ f = .rand) :
      VectorAnswer rand (.next (.failure (errCode .invalidInputLength) (errField f), t))
  /-- The source does not answer (R188). -/
  | waiting (absent : rand = none) : VectorAnswer rand (.fault .randomSourceSilent)

/-- The ways a request can end (R89 to R93, R175, R188). -/
inductive RequestAnswer (q : Request) : Host.Outcome (Response × State) Fault Refusal → Prop where
  /-- A field does not decode (R90 step 1). -/
  | malformed (f : ErrField) (text : List Char) (t : State) (field : f ∈ [ErrField.op, .key, .sqn, .rand])
      (bad : decodeHex text = none) : RequestAnswer q (.next (decodeFailure f text, t))
  /-- The block refuses an operand (R92). -/
  | refused (c : ErrClass) (f : ErrField) (t : State) (pair : (c, f) ∈ requestFailures) :
      RequestAnswer q (.next (blockFailure (errCode c) (errField f), t))
  /-- The vector (R91). -/
  | answered (P : Params) (opc rand : Bytes 16) (sqn : Bytes 6) (t : State) :
      RequestAnswer q (.next (encodeVector (authVector P opc rand sqn), t))
  /-- The source does not answer (R188). -/
  | waiting (noRand : q.rand = none) : RequestAnswer q (.fault .randomSourceSilent)

/-- With RAND chosen, `GENERATE_AV` ends in the vector or in the failure of SQN's length. -/
theorem generateAv_answer_of_choice {sqn rand : Option ByteString} {s u : State} {r : Bytes 16}
    (hv : s.block.km.valid = true)
    (hsel : selectRand rand.isSome (vectorInputsPushed sqn rand s) = .success r u) :
    VectorAnswer rand (generateAv sqn rand s) := by
  by_cases hq : sqn.isSome = true → (vectorInputsPushed sqn rand s).block.staging.sqn.cnt = 6
  · obtain ⟨t, ht⟩ := generateAv_chosen hv hsel hq
    rw [ht]; exact .returned _ _ _ _ t
  · obtain ⟨hsome, hlen⟩ := Classical.not_imp.mp hq
    obtain ⟨vs, rfl⟩ := Option.isSome_iff_exists.mp hsome
    obtain ⟨t, ht⟩ := generateAv_bad_sqn hv hsel hlen
    rw [ht]; exact .refused .sqn t (.inl rfl)

/-- Everything `GENERATE_AV` can answer while a KeyMaterial is held. -/
theorem generateAv_answer (sqn rand : Option ByteString) {s : State} (hv : s.block.km.valid = true) :
    VectorAnswer rand (generateAv sqn rand s) := by
  cases rand with
  | some vs =>
    by_cases hr : (vectorInputsPushed sqn (some vs) s).block.staging.rand.cnt = 16
    · exact generateAv_answer_of_choice hv (selectRand_staged hr)
    · obtain ⟨t, ht⟩ := generateAv_bad_rand hv hr
      rw [ht]; exact .refused .rand t (.inr rfl)
  | none =>
    cases ha : sourceAnswer s.draws s.source with
    | some answer => exact generateAv_answer_of_choice hv (selectRand_answered ha)
    | none => rw [generateAv_waits hv ha]; exact .waiting rfl

/-- Steps 2 to 4 of R90 end in one of the ways of `RequestAnswer`. -/
theorem serveDecoded_answer {q : Request} {rand : Option ByteString} (hrand : rand = none → q.rand = none)
    (op key sqn : Option ByteString) (s : State) : RequestAnswer q (serveDecoded op key sqn rand s) := by
  cases hf : loadkeyFailure op.isSome key.isSome (keysPushed op key s).block.staging with
  | some failure =>
    obtain ⟨c, f⟩ := failure
    obtain ⟨t, ht⟩ := serveDecoded_key_refused sqn rand hf
    rw [ht]
    exact .refused c f t (loadkeyFailure_mem hf)
  | none =>
    obtain ⟨t, hload, held⟩ : ∃ t, loadKeyMaterial op key s = .next (.success (), t) ∧ t.block.km.valid = true :=
      (loadKeyMaterial_accepted hf).elim fun _ h => ⟨_, h, rfl⟩
    rw [serveDecoded_key_loaded sqn rand hload]
    have answer := generateAv_answer sqn rand held
    generalize generateAv sqn rand t = o at answer ⊢
    cases answer with
    | returned P opc r v t => exact .answered P opc r v t
    | refused f t field => exact .refused .invalidInputLength f t (by obtain rfl | rfl := field <;> decide)
    | waiting absent => exact .waiting (hrand absent)

/-- Every request ends in one of the ways of `RequestAnswer` (R90). -/
theorem serveRequest_answer (q : Request) (s : State) : RequestAnswer q (serveRequest q s) := by
  obtain ⟨op, hop, hop'⟩ | ⟨text, -, hbad, hop⟩ := decodeField_cases .op q.op
  case inr => rw [serveRequest, hop]; exact .malformed .op text s (by decide) hbad
  obtain ⟨key, hkey, hkey'⟩ | ⟨text, -, hbad, hkey⟩ := decodeField_cases .key q.secretKey
  case inr => rw [serveRequest, hop, hkey]; exact .malformed .key text s (by decide) hbad
  obtain ⟨sqn, hsqn, hsqn'⟩ | ⟨text, -, hbad, hsqn⟩ := decodeField_cases .sqn q.sqn
  case inr => rw [serveRequest, hop, hkey, hsqn]; exact .malformed .sqn text s (by decide) hbad
  obtain ⟨rand, hrand, hrand'⟩ | ⟨text, -, hbad, hrand⟩ := decodeField_cases .rand q.rand
  case inr => rw [serveRequest, hop, hkey, hsqn, hrand]; exact .malformed .rand text s (by decide) hbad
  rw [serveRequest_decoded s hop' hkey' hsqn' hrand']
  have absent (hnone : rand = none) : q.rand = none := by rw [hnone] at hrand'; exact Option.map_eq_none_iff.mp hrand'
  exact serveDecoded_answer absent op key sqn s

/-- Settles O55: each way a request can end is one of the records, or the wait. -/
theorem requestAnswersOneRecord : Obligations.RequestAnswersOneRecord := by
  unfold Obligations.RequestAnswersOneRecord
  intro q s
  have answer := serveRequest_answer q s
  generalize serveRequest q s = o at answer ⊢
  cases answer with
  | malformed f text t field bad =>
    have codes : ∀ f ∈ [ErrField.op, .key, .sqn, .rand], errField f ∈ [0x01#8, 0x02#8, 0x03#8, 0x04#8] := by decide
    exact ⟨rfl, (if_pos rfl).mpr ⟨codes f field, text, bad, rfl⟩⟩
  | refused c f t pair =>
    obtain ⟨hcode, hpair⟩ := requestFailures_codes (c, f) pair
    exact ⟨rfl, (if_neg hcode).mpr ⟨hpair, rfl⟩⟩
  | answered P opc rand sqn t =>
    rw [encodeVector_authVector]
    simp only [length_encodeHex, Vector.length_toList]
    decide
  | waiting noRand => exact ⟨rfl, noRand⟩

end Sys2Proof.Machine
end

section
/-! PROOF. The command frame and `CLR` (40_command_frame_clr.md): which commands stop (R96, R188), what every command
consumes (R100) and leaves alone (R103), each read off what a command can do (`exec_effect`); and `CLR` (R101). -/

namespace Sys2Proof.Machine

/-! ### `CLR` -/

/-- `CLR` in closed form: an empty body, so the frame alone acts (R97, R98, R100, R101). -/
theorem exec_clr (s : State) :
    exec .clr s = .next { s with block := blockAfterSuccess s.block.km s.block.memo clearedResults } :=
  runCommand_success rfl

/-- Settles O14: what `CLR` leaves differs from the reset block in `OK` alone (R37). -/
theorem clrClears : Obligations.ClrClears := by
  unfold Obligations.ClrClears
  exact ⟨exec_clr, rfl, exec_clr State.reset⟩

/-! ### Which commands stop -/

/-- The one command that asks the random source is `GENAV` without `RANDP` (R103, R162). -/
theorem drawsRand_iff (i : Instr) : drawsRand i = true ↔ ∃ sqnp, i = .genav sqnp false := by
  cases i with
  | clr | loadkey | opc | f1 | f2 | f3 | f4 | f5 => simp [drawsRand]
  | genav sqnp randp => cases randp <;> simp [drawsRand]

/-- Settles O25: of everything a command can do, only an unanswered draw is a stop, and nothing is a refusal. -/
theorem onlyASilentSourceStops : Obligations.OnlyASilentSourceStops := by
  unfold Obligations.OnlyASilentSourceStops
  refine ⟨fun s sqnp held silent => genavBody_waits _ held silent, fun i s r h => ?stops, fun i s r h => ?refused⟩
  case stops =>
    have effect := exec_effect i s
    rw [h] at effect
    cases effect with
    | waiting draws held silent => exact ⟨rfl, (drawsRand_iff i).mp draws, held, silent⟩
  case refused =>
    have effect := exec_effect i s
    rw [h] at effect
    nomatch effect

/-! ### What every command consumes and leaves alone -/

/-- R100 of every command byte: a completed command leaves cleared staging, whether it succeeds or fails. -/
theorem execCommand_staging {c : Byte} {s t : State} (h : execCommand c s = .next t) :
    t.block.staging = clearedStaging := by
  cases hd : decode c with
  | illegal why =>
    rw [execCommand, hd] at h
    cases h
    rfl
  | instr i =>
    rw [execCommand_of_decode hd] at h
    cases exec_next_effect h with
    | failed | cleared | loaded | computed => rfl

/-- Settles O38: the write to `CMD` runs the byte (R52), and that clears staging. -/
theorem everyCommandConsumesStaging : Obligations.EveryCommandConsumesStaging := by
  unfold Obligations.EveryCommandConsumesStaging
  intro s t c h
  rw [execCommand_staging (c := c) h]
  exact ⟨rfl, rfl, rfl, rfl, rfl, rfl, rfl, rfl⟩

/-- Settles O48: a command that fails or computes makes the draw it asks for; `CLR` and `LOADKEY` ask for none. -/
theorem commandsTouchOnlyBlockAndDraw : Obligations.CommandsTouchOnlyBlockAndDraw := by
  unfold Obligations.CommandsTouchOnlyBlockAndDraw
  intro i s t h
  cases exec_next_effect h with
  | failed _ _ _ _ _ draw => exact ⟨rfl, rfl, rfl, draw⟩
  | cleared isClr => subst isClr; exact ⟨rfl, rfl, rfl, drawEffect_none (.inl rfl)⟩
  | loaded isLoad => subst isLoad; exact ⟨rfl, rfl, rfl, drawEffect_none (.inl rfl)⟩
  | computed _ _ _ _ _ _ _ draw => exact ⟨rfl, rfl, rfl, draw⟩

end Sys2Proof.Machine
end

section
/-! PROOF. The KeyMaterial slot (41_keymaterial_loadkey.md): `LOADKEY` by the first check that fails (R106), and that
nothing else but reset writes the slot (R107), read off what a transaction can do to the block (`transact_effect`). -/

namespace Sys2Proof.Machine

/-! ### `LOADKEY` -/

/-- Settles O15: with no failing check `LOADKEY` constructs, and otherwise the first failing check is raised
(`loadkeyFailure`). -/
theorem loadkeyConstructsOrFails : Obligations.LoadkeyConstructsOrFails := by
  unfold Obligations.LoadkeyConstructsOrFails
  intro s
  refine ⟨fun ho hk => ?constructs, fun kp => exec_loadkey_refused rfl, exec_loadkey_refused rfl,
    fun ho => exec_loadkey_refused ?opLength, fun ho hk => exec_loadkey_refused ?keyLength, by decide⟩
  case constructs => exact exec_loadkey_accepted (loadkeyFailure_eq_none_iff.mpr ⟨rfl, rfl, ho, hk⟩)
  case opLength => rw [loadkeyFailure_present, if_pos ho]
  case keyLength => rw [loadkeyFailure_present, if_neg (not_not.mpr ho), if_pos hk]

/-! ### Who writes the slot -/

/-- What an effect does to the slot: it stays (R107), unless the transaction is the reset input (R200) or a successful
`LOADKEY`, which fills it with the staged pair (R106). -/
theorem BlockEffect.km_cases {P : Params} {tx : Transaction} {b c : Block} (h : BlockEffect P tx b c) :
    c.km = b.km ∨ tx = .reset ∨
      (tx = .write 0x00 0x31 ∧ c.status.ok = true ∧
        c.km = { k := b.staging.k.buf, op := b.staging.op.buf, valid := true }) := by
  cases h with
  | held | pushed | failed | cleared | computed => exact .inl rfl
  | reset isReset => exact .inr (.inl isReset)
  | loaded isLoad => exact .inr (.inr ⟨isLoad, rfl, rfl⟩)

/-- Settles O42: a slot that stays is neither changed nor discarded, and one that is loaded holds a KeyMaterial. -/
theorem keyMaterialIsImmutable : Obligations.KeyMaterialIsImmutable := by
  unfold Obligations.KeyMaterialIsImmutable
  intro tx s t h
  obtain ⟨heff, -⟩ := transact_effect h
  refine ⟨fun changed => heff.km_cases.resolve_left changed, fun held gone => ?discarded⟩
  obtain hsame | hreset | ⟨-, -, hloaded⟩ := heff.km_cases
  · rw [hsame, held] at gone; nomatch gone
  · exact hreset
  · rw [hloaded] at gone; nomatch gone

end Sys2Proof.Machine
end

section
/-! PROOF. OPc and its memo (42_opc_corefunction.md): OPc byte by byte (R117), `OPC` in closed form (R121), the memo a
successful command leaves (R119), and that the memo shows in no value (R120), by a relation between the two runs that
every part of a command body keeps (`Body.Agree`). -/

namespace Sys2Proof.Machine

/-! ### `DeriveOPc` and `OPC` -/

/-- Settles O26: `DeriveOPc` is the byte-wise mask. -/
theorem opcIsCoreOutputXorOp : Obligations.OpcIsCoreOutputXorOp := by
  unfold Obligations.OpcIsCoreOutputXorOp
  intro P k op i
  exact xorBytes_getElem (P.e k op) op i i.isLt

/-- Settles O16: under a coherent memo `EnsureOPc` answers the slot's OPc, computed or kept. -/
theorem opcExposesOpc : Obligations.OpcExposesOpc := by
  unfold Obligations.OpcExposesOpc
  intro s
  refine ⟨fun held coherent => ?exposes, fun absent => runCommand_needs_key absent, rfl⟩
  have run : exec .opc s = _ := opcBody_success (paramsOf s.inst) held
  rw [run, ensureOpc_of_coherent coherent, rvalidOf_opcOut]
  rfl

/-! ### The memo a command leaves -/

/-- Settles O33: of a key command's ends only `computed` is a success, and its memo is `EnsureOPc`'s. -/
theorem keyCommandsFillMemo : Obligations.KeyCommandsFillMemo := by
  unfold Obligations.KeyCommandsFillMemo
  intro i s t needs h ok
  cases exec_next_effect h with
  | failed => nomatch ok
  | cleared isClr => subst isClr; nomatch needs
  | loaded isLoad => subst isLoad; nomatch needs
  | computed =>
    obtain ⟨filled, same⟩ | ⟨empty, derived⟩ := ensureOpc_cases (paramsOf s.inst) s.block.km s.block.memo
    · exact ⟨fun _ => same, fun empty => absurd filled (by simp [empty])⟩
    · exact ⟨fun filled => absurd filled (by simp [empty]), fun _ => derived⟩

/-! ### Runs that differ in a coherent memo -/

/-- Two states alike but for the memo, either memo being coherent (R36 (b)). -/
def SameButMemo (P : Params) (s u : State) : Prop :=
  ∃ m : Memo, u = { s with block := { s.block with memo := m } } ∧ MemoCoherent P s.block ∧ MemoCoherent P u.block

/-- Two answers of a body alike but for the memo in their states. -/
inductive Body.Agree (P : Params) {α : Type} : Body α → Body α → Prop where
  | success (a : α) {s u : State} (same : SameButMemo P s u) : Agree P (.success a s) (.success a u)
  | failure (c : ErrClass) (f : ErrField) {s u : State} (same : SameButMemo P s u) :
      Agree P (.failure c f s) (.failure c f u)
  | stuck (r : Fault) : Agree P (.stuck r) (.stuck r)

/-- Two ends of a command alike but for the memo in their states; a command is never refused. -/
inductive OutcomesAgree (P : Params) :
    Host.Outcome State Fault Refusal → Host.Outcome State Fault Refusal → Prop where
  | next {t u : State} (same : SameButMemo P t u) : OutcomesAgree P (.next t) (.next u)
  | fault (r : Fault) : OutcomesAgree P (.fault r) (.fault r)

section
variable {P : Params} {s u : State}

/-- Sequencing keeps agreement when what follows does. -/
theorem Body.Agree.andThen {α β : Type} {b b' : Body α} {k : α → State → Body β} (h : Body.Agree P b b')
    (hk : ∀ a s u, SameButMemo P s u → Body.Agree P (k a s) (k a u)) :
    Body.Agree P (b.andThen k) (b'.andThen k) := by
  cases h with
  | success a same => exact hk a _ _ same
  | failure c f same => exact .failure c f same
  | stuck r => exact .stuck r

theorem SameButMemo.staging (same : SameButMemo P s u) : s.block.staging = u.block.staging := by
  obtain ⟨m, rfl, -, -⟩ := same
  rfl

theorem SameButMemo.km (same : SameButMemo P s u) : s.block.km = u.block.km := by
  obtain ⟨m, rfl, -, -⟩ := same
  rfl

theorem SameButMemo.prologue (same : SameButMemo P s u) :
    SameButMemo P (onBlock prologue s) (onBlock prologue u) := by
  obtain ⟨m, rfl, hs, hu⟩ := same
  exact ⟨m, rfl, hs, hu⟩

/-! ### The parts of a body -/

/-- A check whose condition is alike in both runs (R181). -/
theorem agree_require {cond cond' : Bool} (hcond : cond = cond') (c : ErrClass) (f : ErrField)
    (same : SameButMemo P s u) : Body.Agree P (require cond c f s) (require cond' c f u) := by
  subst hcond
  cases cond with
  | true => exact .success () same
  | false => exact .failure c f same

theorem agree_requireKeyMaterial (same : SameButMemo P s u) :
    Body.Agree P (requireKeyMaterial s) (requireKeyMaterial u) :=
  agree_require (by rw [same.km]) _ _ same

theorem agree_stagedRand (same : SameButMemo P s u) : Body.Agree P (stagedRand s) (stagedRand u) := by
  refine (agree_require (by rw [same.staging]) _ _ same).andThen fun _ s u same => ?_
  rw [same.staging]
  exact .success _ same

theorem agree_stagedSqn (same : SameButMemo P s u) : Body.Agree P (stagedSqn s) (stagedSqn u) := by
  refine (agree_require (by rw [same.staging]) _ _ same).andThen fun _ s u same => ?_
  rw [same.staging]
  exact .success _ same

/-- The choice of RAND, drawn or staged, does not look at the memo (R156). -/
theorem agree_selectRand (randp : Bool) (same : SameButMemo P s u) :
    Body.Agree P (selectRand randp s) (selectRand randp u) := by
  cases randp with
  | true => exact agree_stagedRand same
  | false =>
    obtain ⟨m, rfl, hs, hu⟩ := same
    cases answer : sourceAnswer s.draws s.source with
    | none => rw [selectRand_silent answer, selectRand_silent (by exact answer)]; exact .stuck _
    | some da =>
      rw [selectRand_answered answer, selectRand_answered (by exact answer)]
      exact .success _ ⟨m, rfl, hs, hu⟩

theorem agree_selectSqn (sqnp : Bool) (same : SameButMemo P s u) :
    Body.Agree P (selectSqn sqnp s) (selectSqn sqnp u) := by
  cases sqnp with
  | true => exact agree_stagedSqn same
  | false => exact .success _ same

/-- `EnsureOPc` from either coherent memo answers the slot's OPc and leaves it in the memo (R119, R120): the one place
where a body looks at the memo. -/
theorem agree_obtainOpc (same : SameButMemo P s u) : Body.Agree P (obtainOpc P s) (obtainOpc P u) := by
  obtain ⟨m, rfl, hs, hu⟩ := same
  rw [obtainOpc_eq, obtainOpc_eq, ensureOpc_of_coherent hs, ensureOpc_of_coherent hu]
  exact .success _ ⟨_, rfl, fun _ => rfl, fun _ => rfl⟩

theorem agree_writeResults (regs : List ResultReg) (g : Results → Results) (same : SameButMemo P s u) :
    Body.Agree P (writeResults regs g s) (writeResults regs g u) := by
  obtain ⟨m, rfl, hs, hu⟩ := same
  exact .success () ⟨m, rfl, hs, hu⟩

/-! ### The command bodies, each along its own sequence -/

/-- `LOADKEY` empties the memo it finds (R109). -/
theorem agree_loadkeyBody (opp kp : Bool) (same : SameButMemo P s u) :
    Body.Agree P (loadkeyBody opp kp s) (loadkeyBody opp kp u) := by
  refine (agree_require rfl _ _ same).andThen fun _ s u same => ?_
  refine (agree_require rfl _ _ same).andThen fun _ s u same => ?_
  refine (agree_require (by rw [same.staging]) _ _ same).andThen fun _ s u same => ?_
  refine (agree_require (by rw [same.staging]) _ _ same).andThen fun _ s u same => ?_
  obtain ⟨m, rfl, -, -⟩ := same
  exact .success () ⟨{ opc := zeros 16, valid := false }, rfl, nofun, nofun⟩

theorem agree_opcBody (same : SameButMemo P s u) : Body.Agree P (opcBody P s) (opcBody P u) :=
  (agree_requireKeyMaterial same).andThen fun _ _ _ same =>
  (agree_obtainOpc same).andThen fun _ _ _ same =>
    agree_writeResults _ _ same

theorem agree_f1Body (same : SameButMemo P s u) : Body.Agree P (f1Body P s) (f1Body P u) :=
  (agree_requireKeyMaterial same).andThen fun _ _ _ same =>
  (agree_stagedRand same).andThen fun _ _ _ same =>
  (agree_stagedSqn same).andThen fun _ _ _ same =>
  (agree_obtainOpc same).andThen fun _ _ _ same =>
    agree_writeResults _ _ same

theorem agree_deriverBody (reg : ResultReg) (put : (opc rand : Bytes 16) → Results → Results)
    (same : SameButMemo P s u) : Body.Agree P (deriverBody P reg put s) (deriverBody P reg put u) :=
  (agree_requireKeyMaterial same).andThen fun _ _ _ same =>
  (agree_stagedRand same).andThen fun _ _ _ same =>
  (agree_obtainOpc same).andThen fun _ _ _ same =>
    agree_writeResults _ _ same

theorem agree_genavBody (sqnp randp : Bool) (same : SameButMemo P s u) :
    Body.Agree P (genavBody P sqnp randp s) (genavBody P sqnp randp u) :=
  (agree_requireKeyMaterial same).andThen fun _ _ _ same =>
  (agree_selectRand randp same).andThen fun _ _ _ same =>
  (agree_selectSqn sqnp same).andThen fun _ _ _ same =>
  (agree_obtainOpc same).andThen fun _ _ _ same =>
    agree_writeResults _ _ same

/-! ### The frame and the commands -/

/-- The frame neither looks at the memo nor writes it (R97 to R100). -/
theorem runCommand_agree {body : State → Body Unit}
    (hbody : ∀ s u, SameButMemo P s u → Body.Agree P (body s) (body u)) (same : SameButMemo P s u) :
    OutcomesAgree P (runCommand body s) (runCommand body u) := by
  have agree := hbody _ _ same.prologue
  rw [runCommand, runCommand]
  generalize body (onBlock prologue s) = b at agree ⊢
  generalize body (onBlock prologue u) = b' at agree ⊢
  cases agree with
  | success _ same | failure _ _ same => obtain ⟨m, rfl, hs, hu⟩ := same; exact .next ⟨m, rfl, hs, hu⟩
  | stuck r => exact .fault r

end

/-- From states alike but for the memo, every command ends alike but for the memo (R120); the plugged functions are the
same in both, since only the memo differs. -/
theorem exec_agree (i : Instr) {s u : State} (same : SameButMemo (paramsOf s.inst) s u) :
    OutcomesAgree (paramsOf s.inst) (exec i s) (exec i u) := by
  obtain ⟨m, rfl, hs, hu⟩ := same
  have same : SameButMemo (paramsOf s.inst) s _ := ⟨m, rfl, hs, hu⟩
  cases i with
  | clr => exact runCommand_agree (fun _ _ => .success ()) same
  | loadkey opp kp => exact runCommand_agree (fun _ _ => agree_loadkeyBody opp kp) same
  | opc => exact runCommand_agree (fun _ _ => agree_opcBody) same
  | f1 => exact runCommand_agree (fun _ _ => agree_f1Body) same
  | f2 | f3 | f4 | f5 => exact runCommand_agree (fun _ _ => agree_deriverBody _ _) same
  | genav sqnp randp => exact runCommand_agree (fun _ _ => agree_genavBody sqnp randp) same

/-- Settles O32: an empty memo is coherent, so a command run from it agrees with the command run from `s`. -/
theorem memoIsUnobservable : Obligations.MemoIsUnobservable := by
  unfold Obligations.MemoIsUnobservable
  intro i s coherent s₀
  have agree : OutcomesAgree (paramsOf s.inst) (exec i s) (exec i s₀) := exec_agree i ⟨_, rfl, coherent, nofun⟩
  generalize exec i s = o at agree ⊢
  generalize exec i s₀ = o₀ at agree ⊢
  cases agree with
  | fault r => exact ⟨fun _ => Iff.rfl, nofun⟩
  | next same =>
    obtain ⟨m, rfl, -, -⟩ := same
    refine ⟨fun _ => ⟨nofun, nofun⟩, fun t h => ?_⟩
    cases h
    exact ⟨_, rfl, rfl, rfl, rfl, rfl, rfl, rfl⟩

end Sys2Proof.Machine
end

section
/-! PROOF. The keyed-hash helper and f1 (43_f1_maca.md): the helper keeps the digest's leading bytes (R127, R128), so each
function is named by its message (R130, R140 to R143); and `F1` by the first check that fails (R131). -/

namespace Sys2Proof.Machine

/-! ### The keyed-hash helper -/

/-- Byte `i` of `KDF` is byte `i` of the digest (R127, R128). -/
theorem kdf_getElem (P : Params) (opc : Bytes 16) (msg : ByteString) {n : Nat} (hn : n ≤ 16) (i : Fin n) :
    (kdf P opc msg n hn)[i] = (P.h opc msg)[i.val]'(i.isLt.trans_le (hn.trans P.dlen_ge)) :=
  takeLeading_getElem (P.h opc msg) (hn.trans P.dlen_ge) i i.isLt

/-- f1's message has 16 + 6 + 2 bytes (R130). -/
theorem f1Message_length (rand : Bytes 16) (sqn : Bytes 6) (amf : Bytes 2) : (f1Message rand sqn amf).length = 24 := by
  simp [f1Message]

/-- f2's message has the 16 bytes of RAND (R140). -/
theorem f2Message_length (rand : Bytes 16) : (f2Message rand).length = 16 := rand.length_toList

/-- The tagged messages have one byte more (R141 to R143). -/
theorem taggedMessage_length (rand : Bytes 16) (tag : Byte) : (taggedMessage rand tag).length = 17 := by
  simp [taggedMessage]

/-- Settles O27: each function is `KDF` of its message, so its bytes are the digest's leading ones. -/
theorem functionsTruncateKeyedHash : Obligations.FunctionsTruncateKeyedHash := by
  unfold Obligations.FunctionsTruncateKeyedHash
  intro P opc rand sqn amf
  exact ⟨kdf_getElem P opc _ _, kdf_getElem P opc _ _, kdf_getElem P opc _ _, kdf_getElem P opc _ _,
    kdf_getElem P opc _ _, f1Message_length rand sqn amf, f2Message_length rand, taggedMessage_length rand, rfl⟩

/-! ### `F1` -/

/-- Settles O17: with every check passed, `EnsureOPc` under a coherent memo answers the slot's OPc; otherwise the first
failing check is raised. -/
theorem f1WritesMacA : Obligations.F1WritesMacA := by
  unfold Obligations.F1WritesMacA
  intro s
  refine ⟨fun held coherent hrand hsqn => ?writes, fun absent => runCommand_needs_key absent,
    fun held hrand => f1Body_bad_rand _ held hrand, fun held hrand hsqn => f1Body_bad_sqn _ held hrand hsqn, rfl⟩
  have run : exec .f1 s = _ := f1Body_success (paramsOf s.inst) held hrand hsqn
  rw [run, ensureOpc_of_coherent coherent, rvalidOf_maca]

end Sys2Proof.Machine
end

section
/-! PROOF. f2 to f5 and their commands (44_f2_f5_derivers.md): the messages of f1 to f5 are separated by length, by tag and
by the RAND each begins with (R139, R144, R168); and `F2` to `F5` by the first check that fails, settled once for the body
they share (R145 to R149). -/

namespace Sys2Proof.Machine

/-! ### The messages -/

/-- f1's message begins with RAND (R130). -/
theorem take_f1Message (rand : Bytes 16) (sqn : Bytes 6) (amf : Bytes 2) :
    (f1Message rand sqn amf).take 16 = rand.toList := by
  rw [f1Message, List.append_assoc, List.take_left' rand.length_toList]

/-- The tagged messages begin with RAND (R141 to R143). -/
theorem take_taggedMessage (rand : Bytes 16) (tag : Byte) : (taggedMessage rand tag).take 16 = rand.toList :=
  List.take_left' rand.length_toList

/-- Messages of different lengths differ. -/
theorem message_ne_of_length {m m' : ByteString} (h : m.length ≠ m'.length) : m ≠ m' := ne_of_apply_ne List.length h

/-- For one RAND the tag decides the tagged message (R139, R144). -/
theorem taggedMessage_inj (rand : Bytes 16) (tag tag' : Byte) :
    taggedMessage rand tag = taggedMessage rand tag' ↔ tag = tag' := by
  rw [taggedMessage, taggedMessage, List.append_cancel_left_eq, List.singleton_inj]

/-- For one RAND the five messages are pairwise different (R144): f1's and f2's by their lengths, 24 and 16 against 17, and
the tagged ones by their tags. -/
theorem messages_pairwise_ne (rand : Bytes 16) (sqn : Bytes 6) (amf : Bytes 2) :
    [f1Message rand sqn amf, f2Message rand, taggedMessage rand 0x01, taggedMessage rand 0x02,
      taggedMessage rand 0x03].Pairwise (· ≠ ·) := by
  have f1_ne_f2 : f1Message rand sqn amf ≠ f2Message rand :=
    message_ne_of_length (by rw [f1Message_length, f2Message_length]; decide)
  have f1_ne_tagged (tag : Byte) : f1Message rand sqn amf ≠ taggedMessage rand tag :=
    message_ne_of_length (by rw [f1Message_length, taggedMessage_length]; decide)
  have f2_ne_tagged (tag : Byte) : f2Message rand ≠ taggedMessage rand tag :=
    message_ne_of_length (by rw [f2Message_length, taggedMessage_length]; decide)
  simp [f1_ne_f2, f1_ne_tagged, f2_ne_tagged, taggedMessage_inj]

/-- Settles O28: for one RAND by length and tag; for two RANDs by the 16 bytes each message begins with. -/
theorem messagesAreSeparated : Obligations.MessagesAreSeparated := by
  unfold Obligations.MessagesAreSeparated
  refine ⟨messages_pairwise_ne, fun r r' sqn sqn' amf amf' tag hne => ?_⟩
  have rands_ne : r.toList ≠ r'.toList := fun h => hne (Vector.toList_inj.mp h)
  refine ⟨ne_of_apply_ne (List.take 16) ?f1, rands_ne, ne_of_apply_ne (List.take 16) ?tagged⟩
  case f1 => rwa [take_f1Message, take_f1Message]
  case tagged => rwa [take_taggedMessage, take_taggedMessage]

/-! ### `F2` to `F5` -/

/-- The shared body of `F2` to `F5` (R149) by the first check that fails. With every check passed, the register is computed
with the slot's OPc, which `EnsureOPc` answers under a coherent memo, computed or kept. -/
theorem deriver_by_first_check (s : State) (reg : ResultReg) (put : (opc rand : Bytes 16) → Results → Results) :
    (s.block.km.valid = true → MemoCoherent (paramsOf s.inst) s.block → s.block.staging.rand.cnt = 16 →
      runCommand (deriverBody (paramsOf s.inst) reg put) s = .next { s with
        block := blockAfterSuccess s.block.km
          { opc := deriveOpc (paramsOf s.inst) s.block.km.k s.block.km.op, valid := true }
          { put (deriveOpc (paramsOf s.inst) s.block.km.k s.block.km.op) s.block.staging.rand.buf clearedResults with
            rvalid := rvalidOf [reg] } }) ∧
    (s.block.km.valid = false → runCommand (deriverBody (paramsOf s.inst) reg put) s =
      .next { s with block := blockAfterFailure .noKeyMaterial .km s.block }) ∧
    (s.block.km.valid = true → s.block.staging.rand.cnt ≠ 16 → runCommand (deriverBody (paramsOf s.inst) reg put) s =
      .next { s with block := blockAfterFailure .invalidInputLength .rand s.block }) := by
  refine ⟨fun held coherent hrand => ?writes, fun absent => runCommand_needs_key absent,
    fun held hrand => deriverBody_bad_rand _ reg put held hrand⟩
  rw [deriverBody_success _ reg put held hrand, ensureOpc_of_coherent coherent]

/-- Settles O18: the shared body with `XRES` and f2. -/
theorem f2WritesXres : Obligations.F2WritesXres := by
  unfold Obligations.F2WritesXres
  intro s
  obtain ⟨writes, noKey, badRand⟩ :=
    deriver_by_first_check s .xres fun opc rand r => { r with xres := f2 (paramsOf s.inst) opc rand }
  rw [rvalidOf_xres] at writes
  exact ⟨writes, noKey, badRand, rfl⟩

/-- Settles O19: the shared body with `CK` and f3. -/
theorem f3WritesCk : Obligations.F3WritesCk := by
  unfold Obligations.F3WritesCk
  intro s
  obtain ⟨writes, noKey, badRand⟩ :=
    deriver_by_first_check s .ck fun opc rand r => { r with ck := f3 (paramsOf s.inst) opc rand }
  rw [rvalidOf_ck] at writes
  exact ⟨writes, noKey, badRand, rfl⟩

/-- Settles O20: the shared body with `IK` and f4. -/
theorem f4WritesIk : Obligations.F4WritesIk := by
  unfold Obligations.F4WritesIk
  intro s
  obtain ⟨writes, noKey, badRand⟩ :=
    deriver_by_first_check s .ik fun opc rand r => { r with ik := f4 (paramsOf s.inst) opc rand }
  rw [rvalidOf_ik] at writes
  exact ⟨writes, noKey, badRand, rfl⟩

/-- Settles O21: the shared body with `AK` and f5. -/
theorem f5WritesAk : Obligations.F5WritesAk := by
  unfold Obligations.F5WritesAk
  intro s
  obtain ⟨writes, noKey, badRand⟩ :=
    deriver_by_first_check s .ak fun opc rand r => { r with ak := f5 (paramsOf s.inst) opc rand }
  rw [rvalidOf_ak] at writes
  exact ⟨writes, noKey, badRand, rfl⟩

end Sys2Proof.Machine
end

section
/-! PROOF. `GENAV` and AUTN (45_autn_genav.md): the layout of AUTN (R159 to R161); `GENAV` by how RAND was chosen and the
first check that fails (R156, R157, R162); that the vector it leaves verifies (R165) and depends on the functions, the
KeyMaterial, RAND and SQN alone (R164); and that no command reads an earlier outcome (R97, R166). -/

namespace Sys2Proof.Machine

/-! ### The layout of AUTN -/

section
variable (sqn ak : Bytes 6) (amf : Bytes 2) (mac : Bytes 8)

/-- Bytes 0 to 5 are SQN under the mask of AK (R159, R160). -/
theorem assembleAutn_concealed (i : Fin 6) : (assembleAutn sqn ak amf mac)[i.val] = sqn[i] ^^^ ak[i] := by
  have hi := i.isLt
  rw [assembleAutn, catBytes_getElem_left _ _ _ (by omega), catBytes_getElem_left _ _ _ hi]
  exact xorBytes_getElem sqn ak i hi

/-- Bytes 6 and 7 are the AMF (R160). -/
theorem assembleAutn_amf (i : Fin 2) : (assembleAutn sqn ak amf mac)[6 + i.val] = amf[i] := by
  have hi := i.isLt
  rw [assembleAutn, catBytes_getElem_left _ _ _ (by omega), catBytes_getElem_right _ _ _ (by omega) (by omega)]
  simp only [Nat.add_sub_cancel_left, Fin.getElem_fin]

/-- Bytes 8 to 15 are MAC-A (R160). -/
theorem assembleAutn_mac (i : Fin 8) : (assembleAutn sqn ak amf mac)[8 + i.val] = mac[i] := by
  have hi := i.isLt
  rw [assembleAutn, catBytes_getElem_right _ _ _ (by omega) (by omega)]
  simp only [Nat.add_sub_cancel_left, Fin.getElem_fin]

end

/-- Settles O29: AUTN part by part, and concealment is a mask applied twice. -/
theorem autnLayout : Obligations.AutnLayout := by
  unfold Obligations.AutnLayout
  intro sqn ak amf mac
  exact ⟨assembleAutn_concealed sqn ak amf mac, assembleAutn_amf sqn ak amf mac, assembleAutn_mac sqn ak amf mac,
    xorBytes_cancel sqn ak⟩

/-! ### `GENAV` once RAND is chosen -/

section
variable {s u : State} {randp : Bool} {rand : Bytes 16}

/-- With a good SQN and a coherent memo, `GENAV` writes the vector under the slot's OPc (R162 steps 4 to 8); `u` is the
state the choice of RAND has left. -/
theorem exec_genav_writes_vector {sqnp : Bool} (held : s.block.km.valid = true)
    (coherent : MemoCoherent (paramsOf s.inst) s.block) (chosen : selectRand randp s = .success rand u)
    (hsqn : sqnp = true → s.block.staging.sqn.cnt = 6) :
    exec (.genav sqnp randp) s = .next { u with
      block := blockAfterSuccess s.block.km
        { opc := deriveOpc (paramsOf s.inst) s.block.km.k s.block.km.op, valid := true }
        (vectorResults (paramsOf s.inst) (deriveOpc (paramsOf s.inst) s.block.km.k s.block.km.op) rand
          (if sqnp then s.block.staging.sqn.buf else zeros 6)) } := by
  rw [genav_by_rand sqnp randp held, chosen, ensureOpc_of_coherent coherent]
  exact if_pos hsqn

/-- With an SQN of the wrong length `GENAV` fails, and what the choice of RAND did to the source stays (R162, R182). -/
theorem exec_genav_bad_sqn (held : s.block.km.valid = true) (chosen : selectRand randp s = .success rand u)
    (hsqn : s.block.staging.sqn.cnt ≠ 6) :
    exec (.genav true randp) s = .next { u with block := blockAfterFailure .invalidInputLength .sqn s.block } := by
  rw [genav_by_rand true randp held, chosen]
  exact if_neg fun h => hsqn (h rfl)

end

/-- Settles O22: RAND is taken from staging, and the source is not asked. -/
theorem genavWithSuppliedRand : Obligations.GenavWithSuppliedRand := by
  unfold Obligations.GenavWithSuppliedRand
  intro s sqnp held coherent hrand hsqn P opc rand sqn
  rw [exec_genav_writes_vector held coherent (selectRand_staged hrand) hsqn, vectorResults, rvalidOf_authVector]
  rfl

/-- Settles O23: RAND is the source's answer, and the state the draw has left counts one more. -/
theorem genavWithDrawnRand : Obligations.GenavWithDrawnRand := by
  unfold Obligations.GenavWithDrawnRand
  intro s sqnp d src held coherent answer hsqn P opc sqn
  rw [exec_genav_writes_vector held coherent (selectRand_answered answer) hsqn, vectorResults, rvalidOf_authVector]
  rfl

/-- Settles O24: KeyMaterial, then RAND, then SQN; a draw made before SQN is checked is used up. -/
theorem genavFailsInOrder : Obligations.GenavFailsInOrder := by
  unfold Obligations.GenavFailsInOrder
  intro s
  exact ⟨fun sqnp randp => exec_genav_without_key sqnp randp,
    fun _ held hrand => genavBody_bad_rand _ held hrand,
    fun held hrand hsqn => exec_genav_bad_sqn held (selectRand_staged hrand) hsqn,
    fun _ _ held answer hsqn => exec_genav_bad_sqn held (selectRand_answered answer) hsqn⟩

/-! ### The vector a successful `GENAV` leaves -/

/-- The results of a successful `GENAV` are a function of the functions plugged in, the KeyMaterial, the RAND it shows and
the SQN it used: under a coherent memo the memo does not show (R120, R164). -/
theorem results_of_genav {s t : State} {sqnp randp : Bool} (coherent : MemoCoherent (paramsOf s.inst) s.block)
    (h : exec (.genav sqnp randp) s = .next t) (ok : t.block.status.ok = true) :
    t.block.results = vectorResults (paramsOf s.inst) (deriveOpc (paramsOf s.inst) s.block.km.k s.block.km.op)
      t.block.results.randOut (if sqnp then s.block.staging.sqn.buf else zeros 6) := by
  obtain ⟨rand, src, n, rfl⟩ := genav_success_form h ok
  rw [ensureOpc_of_coherent coherent]
  rfl

/-- Settles O31: equal arguments of that function. -/
theorem genavIsDeterministic : Obligations.GenavIsDeterministic := by
  unfold Obligations.GenavIsDeterministic
  intro s s' t t' sqnp sqnp' randp randp' hinst hkm coherent coherent' h h' ok ok' hrand hsqn
  calc t.block.results = _ := results_of_genav coherent h ok
    _ = _ := by rw [hinst, hkm, hrand, hsqn]
    _ = t'.block.results := (results_of_genav coherent' h' ok').symm

/-- Settles O30: the host reads AUTN byte by byte, and its layout names the byte; masking with AK again uncovers SQN. -/
theorem authVectorVerifies : Obligations.AuthVectorVerifies := by
  unfold Obligations.AuthVectorVerifies
  intro s t sqnp randp coherent h ok P opc r sqn
  have results : t.block.results = vectorResults P opc r sqn := results_of_genav coherent h ok
  have autn : t.block.results.autn = assembleAutn sqn (f5 P opc r) amfConst (f1 P opc r sqn amfConst) :=
    congrArg Results.autn results
  have read (i : Fin 16) : memRead t.block (BitVec.ofNat 8 (0x40 + i.val)) =
      (assembleAutn sqn (f5 P opc r) amfConst (f1 P opc r sqn amfConst))[i] := by
    rw [← autn]; exact memRead_bytes t.block .autn i
  have concealed (i : Fin 6) : memRead t.block (BitVec.ofNat 8 (0x40 + i.val)) = sqn[i] ^^^ (f5 P opc r)[i] :=
    (read ⟨i.val, by omega⟩).trans (assembleAutn_concealed sqn _ _ _ i)
  have recovered (i : Fin 6) : memRead t.block (BitVec.ofNat 8 (0x40 + i.val)) ^^^ (f5 P opc r)[i] = sqn[i] := by
    rw [concealed, BitVec.xor_assoc, BitVec.xor_self, BitVec.xor_zero]
  have mac (i : Fin 8) : memRead t.block (BitVec.ofNat 8 (0x48 + i.val)) = (f1 P opc r sqn amfConst)[i] := by
    rw [← assembleAutn_mac sqn (f5 P opc r) amfConst _ i, show 0x48 + i.val = 0x40 + (8 + i.val) by omega]
    exact read ⟨8 + i.val, by omega⟩
  exact ⟨concealed, recovered, (read 6).trans (assembleAutn_amf sqn _ _ _ 0),
    (read 7).trans (assembleAutn_amf sqn _ _ _ 1), mac, congrArg Results.xres results, congrArg Results.ck results,
    congrArg Results.ik results⟩

/-! ### Earlier outcomes -/

/-- The frame runs every body on the state the prologue leaves (R96, R97), and the functions plugged in are part of it. -/
theorem runCommand_of_prologue_eq {s u : State} (same : onBlock prologue s = onBlock prologue u)
    (body : Params → State → Body Unit) :
    runCommand (body (paramsOf s.inst)) s = runCommand (body (paramsOf u.inst)) u := by
  have hinst : s.inst = u.inst := by rw [← onBlock_inst prologue s, same, onBlock_inst]
  rw [runCommand, runCommand, same, hinst]

/-- States that the prologue makes equal are equal to every command. -/
theorem exec_of_prologue_eq (i : Instr) {s u : State} (same : onBlock prologue s = onBlock prologue u) :
    exec i s = exec i u := by
  have run := runCommand_of_prologue_eq same
  cases i with
  | clr => exact run fun _ => clrBody
  | loadkey opp kp => exact run fun _ => loadkeyBody opp kp
  | opc => exact run opcBody
  | f1 => exact run f1Body
  | f2 => exact run f2Body
  | f3 => exact run f3Body
  | f4 => exact run f4Body
  | f5 => exact run f5Body
  | genav sqnp randp => exact run fun P => genavBody P sqnp randp

/-- Settles O46: the prologue overwrites all results, the flags and the error record. -/
theorem commandsIgnoreEarlierOutcome : Obligations.CommandsIgnoreEarlierOutcome := by
  unfold Obligations.CommandsIgnoreEarlierOutcome
  intro i s r st
  exact exec_of_prologue_eq i rfl

end Sys2Proof.Machine
end

section
/-! PROOF. Exceptions (60_exceptions.md): the check for a KeyMaterial comes first (R180, R182), a failure leaves the block
of R181 and nothing else, and the idle block holds its state (R191). -/

namespace Sys2Proof.Machine

/-! ### The first check -/

/-- Settles O34: each of these bodies begins with the check for a KeyMaterial, so the frame ends in its failure. -/
theorem keyCommandsNeedKeyMaterial : Obligations.KeyCommandsNeedKeyMaterial := by
  unfold Obligations.KeyCommandsNeedKeyMaterial
  intro i s needs absent
  cases i with
  | clr | loadkey => nomatch needs
  | opc | f1 | f2 | f3 | f4 | f5 | genav => exact runCommand_needs_key absent

/-! ### What a failure leaves -/

/-- A completed command byte that reports a failure leaves the block of R181, whichever check failed and whether or not
the byte is legal. -/
theorem execCommand_failed_block {c : Byte} {s t : State} (h : execCommand c s = .next t)
    (failed : t.block.status.err = true) : ∃ e f, t.block = blockAfterFailure e f s.block := by
  cases hd : decode c with
  | illegal why =>
    rw [execCommand, hd] at h
    cases h
    exact ⟨.illegalCommand, .cmd, rfl⟩
  | instr i =>
    rw [execCommand_of_decode hd] at h
    cases exec_next_effect h with
    | failed e f => exact ⟨e, f, rfl⟩
    | cleared | loaded | computed => nomatch failed

/-- Settles O35: the parts of the block of R181. -/
theorem failureChangesOnlyRecord : Obligations.FailureChangesOnlyRecord := by
  unfold Obligations.FailureChangesOnlyRecord
  intro c s t h failed
  obtain ⟨e, f, hblock⟩ := execCommand_failed_block h failed
  rw [hblock]
  exact ⟨⟨e, f, rfl⟩, rfl, rfl, rfl, rfl⟩

/-! ### The idle block -/

/-- Settles O2: with an empty script there is no next transaction. -/
theorem idleStepHoldsState : Obligations.IdleStepHoldsState := by
  unfold Obligations.IdleStepHoldsState
  intro s idle
  have none_pending : nextTransaction s = none := by rw [nextTransaction, idle]
  rw [step, none_pending]

end Sys2Proof.Machine
end

section
/-! PROOF. Hazards (70_reset_and_hazards.md): between commands the host's transactions reach the staging area alone, so
that results, flags and the error record stand (R205). -/

namespace Sys2Proof.Machine

/-- The frame of a transaction that neither resets the block nor starts a command: a read and an ignored write leave the
whole block (R51, R52), a push all of it but the staging area (R27). -/
theorem transact_changes_only_staging {tx : Transaction} {s t : State} (h : transact tx s = .next t)
    (notReset : tx ≠ .reset) (notCmd : ∀ c, tx ≠ .write 0x00 c) :
    t.block = { s.block with staging := t.block.staging } := by
  obtain ⟨a, -, rfl⟩ | ⟨isReset, -⟩ | ⟨c, i, isCmd, -, -⟩ | ⟨c, isCmd, -, -⟩ | ⟨x, v, -, rfl⟩ | ⟨a, v, -, -, rfl⟩ :=
    transact_cases h
  · rfl
  · exact absurd isReset notReset
  · exact absurd isCmd (notCmd c)
  · exact absurd isCmd (notCmd c)
  · rfl
  · rfl

/-- Settles O44: results and status lie outside the staging area. -/
theorem resultsStandUntilCommand : Obligations.ResultsStandUntilCommand := by
  unfold Obligations.ResultsStandUntilCommand
  intro tx s t h notReset notCmd
  rw [transact_changes_only_staging h notReset notCmd]
  exact ⟨rfl, rfl⟩

end Sys2Proof.Machine
end
